-- ==== Sys2Proof/Word.lean ====
section
/-!
DEFINITION. The two word types of the block and nothing else: 00_scope.md rules R10 and R11 number the bits of a byte
7 down to 0, make `+` on bytes addition modulo 256 and name no signed quantity, which is `BitVec` arithmetic.
-/

namespace Sys2Proof

/-- An unsigned 8-bit value, bit 7 the most significant (R10). -/
abbrev Byte := BitVec 8

/-- A 16-bit packet field (10_state.md R45). -/
abbrev Half := BitVec 16

end Sys2Proof
end

