-- ==== Sys2Proof/Config.lean ====
section
/-!
DEFINITION. What an implementation fixes and what the spec leaves open. The values the block only carries about
(R8 `ErrCode`, R41, R42) are types of their own; the parameters of R8 are the structure `Params`; the free values of
93_implementation_defined.md are constants without a body, so nothing in Lean can prove a value of one.
-/

namespace Sys2Proof

/-- A device read-error code: R8 `ErrCode`, opaque, passed through unchanged (D8, U7). The number only tells two
codes apart (DESIGN CHOICE, log 2; safe: no rule computes with it). -/
structure ErrCode where
  id : Nat
deriving DecidableEq, Repr, Inhabited

/-- A device path (R41 `CFG.PATH`), opaque (log 2). -/
structure DevPath where
  id : Nat
deriving DecidableEq, Repr, Inhabited

/-- A reference to a packet handler (R41 `CFG.HANDLER`), opaque and never null (log 2). -/
structure HandlerRef where
  id : Nat
deriving DecidableEq, Repr, Inhabited

/-- The handler's opaque argument (R41 `CFG.ARG`, log 2). -/
structure HandlerArg where
  id : Nat
deriving DecidableEq, Repr, Inhabited

/-- A handle of an open byte device (R42 `S.DEV`), opaque (log 2). -/
structure DevHandle where
  id : Nat
deriving DecidableEq, Repr, Inhabited

/-- A device configuration (R42 `S.SAVED_CFG`), opaque (log 2). -/
structure DevConfig where
  id : Nat
deriving DecidableEq, Repr, Inhabited

/-- The baud rate of raw mode (R8 `RAW_BAUD`), external (D17). -/
structure Baud where
  id : Nat
deriving DecidableEq, Repr, Inhabited

/-- The parameters of R8. They stand in the state so that every statement holds for every value of them (DESIGN CHOICE,
log 1; safe); no step changes them (R87). The types carry R8's ranges: the marker byte is a top bit of 1 over
`markerLow`, `maxFrames` is 0..127, and the number of instances is at least 1 or unbounded. -/
structure Params where
  /-- bits 6..0 of `MARKER_VALUE`; bit 7 is 1 (R8, R102) -/
  markerLow : BitVec 7
  /-- `MAX_FRAMES`, 0..127 (R8, D3) -/
  maxFrames : Fin 128
  /-- `ALLOC_MAY_FAIL` (R8, D4) -/
  allocMayFail : Bool
  /-- `STD_STREAM_PATH` (R8, D16) -/
  stdStreamPath : DevPath
  /-- the device of the pre-opened standard stream (R242 `StdStream`) -/
  stdStream : DevHandle
  /-- `RAW_BAUD` (R8, D17) -/
  rawBaud : Baud
  /-- `MAX_INSTANCES` less one, or `none` where it is unbounded (R8, D25) -/
  extraInstances : Option Nat
deriving DecidableEq, Repr

/-- `MARKER_VALUE` bits 6..0: OPEN in R8, so no value (U1). -/
opaque Config.markerLow : BitVec 7

/-- `STD_STREAM_PATH`: OPEN in R8, so no value. -/
opaque Config.stdStreamPath : DevPath

/-- The platform's pre-opened standard stream: not given by the spec, so no value. -/
opaque Config.stdStream : DevHandle

/-- `RAW_BAUD`: OPEN in R8, so no value (U16). -/
opaque Config.rawBaud : Baud

/-- `MAX_INSTANCES` less one: OPEN in R8, so no value. -/
opaque Config.extraInstances : Option Nat

/-- The parameters at reset: R8's defaults for `MAX_FRAMES` and `ALLOC_MAY_FAIL`, no value for what R8 leaves OPEN. -/
def Config.params : Params where
  markerLow := Config.markerLow
  maxFrames := 127
  allocMayFail := false
  stdStreamPath := Config.stdStreamPath
  stdStream := Config.stdStream
  rawBaud := Config.rawBaud
  extraInstances := Config.extraInstances

/-- A byte the spec leaves unspecified: the free value of draw `n`, place `i` (U4, U5, U6, U24; log 4). -/
opaque Config.freeByte (n i : Nat) : Byte

/-- A 16-bit field the spec leaves unspecified (U4, U24; log 4). -/
opaque Config.freeHalf (n i : Nat) : Half

/-- The number inside an opaque value the spec leaves unspecified (U24; log 4). -/
opaque Config.freeNat (n i : Nat) : Nat

/-- A bit the spec leaves unspecified (U24, and `Valid` of no bytes; logs 4, 20). -/
opaque Config.freeBool (n i : Nat) : Bool

end Sys2Proof
end

