-- ==== Sys2Proof/Machine/Flags.lean ====
section
/-!
DEFINITION. The tests of the block. It has no condition codes (10_state.md R49): the outcome of the top-bit test, of the
marker test and of the checksum test decides the transition of the step that computes it and is stored nowhere.
-/

namespace Sys2Proof

/-- `MARKER_VALUE`: any byte with bit 7 = 1 (R8, R102). -/
def Params.marker (p : Params) : Byte := 1#1 ++ p.markerLow

/-- `MAX_INSTANCES` (R8): a number of at least 1, or `none` where there is no limit. -/
def Params.maxInstances (p : Params) : Option Nat := p.extraInstances.map (· + 1)

/-- `b[7]`, the top bit (R10). -/
def topBit (b : Byte) : Bool := b.getLsbD 7

/-- The classes of a byte on the wire (R100). -/
inductive ByteClass where
  | marker | high | clean
deriving DecidableEq, Repr

/-- The class of a byte, for the marker value `m` (R100). -/
def byteClass (m b : Byte) : ByteClass :=
  if topBit b = false then .clean else if b = m then .marker else .high

/-- The 8-bit sum of a span, modulo 256, taken in order (R140, R142). -/
def sumBytes (s : List Byte) : Byte := s.foldl (· + ·) 0

/-- `Ck(s)`: the sum, bitwise negated, top bit cleared (R147). -/
def ck (s : List Byte) : Byte := ~~~(sumBytes s) &&& 0x7F

/-- `Valid(s, n)` for the span `s` of `n >= 1` bytes: the checksum of all bytes before the last equals the last,
all 8 bits compared (R140, R141). For a span of no bytes the rules
state no result: the instruction answers a free value and does not ask this function (log 20). -/
def valid (s : List Byte) : Bool :=
  match s.getLast? with
  | none => false
  | some c => ck s.dropLast == c

end Sys2Proof
end

