-- ==== Sys2Proof/Syntax.lean ====
section
/-!
DEFINITION. The syntax of the block: the enumerations of 10_state.md, the read results of 20_memory.md, the causes and
results of 60_exceptions.md and 43_lifecycle.md, and `Instr`, one constructor for each row of spec/opcode_table.json.
-/

namespace Sys2Proof

/-- `S.LIFE`, the lifecycle state of an instance slot (R32). -/
inductive Life where
  | free | running | teardown | stopped
deriving DecidableEq, Repr

/-- `S.FSM`, the Synchronizing Reader state (R33). -/
inductive Fsm where
  | hunting | readingHeader | readingFrames | delivering
deriving DecidableEq, Repr

/-- `S.TD`, the teardown step (R34). -/
inductive Td where
  | restore | close | sentinel | release
deriving DecidableEq, Repr

/-- What one `ReadByte` answers (R71). -/
inductive RdResult where
  | byte (b : Byte)
  | eos
  | err (e : ErrCode)
deriving DecidableEq, Repr

/-- The causes of `Abandon`, codes 0x01 to 0x05 (R281). -/
inductive AbandonCause where
  | hdrTopbit | hdrChecksum | hdrAlloc | frmTopbit | frmChecksum
deriving DecidableEq, Repr

/-- `ExitValue ::= EndOfStream | IoError(e)` (R43, D8). -/
inductive ExitValue where
  | endOfStream
  | ioError (e : ErrCode)
deriving DecidableEq, Repr

/-- The reasons of a failed START, codes 0x20 to 0x25 (R281, R290). -/
inductive StartReason where
  | notRegistered | allocFailed | openFailed | configQueryFailed | configSetFailed | launchFailed
deriving DecidableEq, Repr

/-- The result of START (R242): `Ok(handle)` or `Fail(reason)`. -/
inductive StartResult where
  | ok (handle : Nat)
  | fail (reason : StartReason)
deriving DecidableEq, Repr

/-- The header fields of a packet (R45), the result `Fields(DST, SRC, REV, CMD, NFR)` of `HeaderDecode` (R160). -/
structure PktFields where
  dst : Half
  src : Half
  rev : Byte
  cmd : Half
  nfr : Byte
deriving DecidableEq, Repr

/-- The packet as the handler sees it during its call (R45, R84): the fields and the payload bytes `PAY[0 .. 4*NFR]`. -/
structure Packet where
  fields : PktFields
  payload : List Byte
deriving DecidableEq, Repr

/-- The configuration registers of an instance, latched by START (R41). -/
structure InstCfg where
  path : DevPath
  raw : Bool
  handler : HandlerRef
  arg : HandlerArg
deriving DecidableEq, Repr

/-- The part of the sequencer the event map reads (R31, R115): `S.FSM`, `S.HCNT` (0..8) and `S.FPOS` (0..5). -/
structure Sequencer where
  fsm : Fsm
  hcnt : Fin 9
  fpos : Fin 6
deriving DecidableEq, Repr

/-- One constructor for each row of spec/opcode_table.json. `k` is the slot of the instance the event belongs to
(the `S` of the rules). The marker of `HUNT_MARKER` is no operand: it equals `MARKER_VALUE` (R191). -/
inductive Instr where
  | huntMarker (k : Nat)
  | huntSkip (k : Nat) (b : Byte)
  | hdrByte (k : Nat) (b : Byte)
  | hdrLast (k : Nat) (b : Byte)
  | hdrAbort (k : Nat) (b : Byte)
  | frmByte (k : Nat) (b : Byte)
  | frmAbort (k : Nat) (b : Byte)
  | frmLast (k : Nat) (b : Byte)
  | rdEos (k : Nat)
  | rdErr (k : Nat) (e : ErrCode)
  | deliver (k : Nat)
  | deliverRet (k : Nat)
  | register
  /-- `handler` is `none` for a null handler (R41, U17). -/
  | start (path : DevPath) (raw : Bool) (handler : Option HandlerRef) (arg : HandlerArg)
  | join (handle : Nat)
  | tdRestore (k : Nat)
  | tdClose (k : Nat)
  | tdSentinel (k : Nat)
  | tdSentinelRet (k : Nat)
  | tdRelease (k : Nat)
  /-- `Valid(s, n)` with `n` the length of the span `s`. -/
  | valid (s : List Byte)
  | ck (s : List Byte)
  | headerDecode (h : Vector Byte 9)
  | frameDecode (f : Vector Byte 6)
  | acceptHeader (k : Nat) (b : Byte)
  | acceptFrame (k : Nat) (b : Byte)
  | abandon (k : Nat) (cause : AbandonCause)
  | fatal (k : Nat) (v : ExitValue)
deriving DecidableEq, Repr

end Sys2Proof
end

