-- ==== Sys2Proof/Machine/Operands.lean ====
section
/-!
DEFINITION. The wire formats read and written: the Header Decoder and the Frame Decoder (41_decoders.md) and their
inverses, the `HDR` and `FRM` encoders (30_encoding.md R117, R118).
-/

namespace Sys2Proof

/-- A 16-bit field from its low and high wire bytes, `{hi, lo}`, with no further bit manipulation (R75, R107). -/
def assemble (lo hi : Byte) : Half := lo.setWidth 16 ||| (hi.setWidth 16 <<< 8)

/-- `HeaderDecode(h)`: `none` is `Reject` (R160). -/
def headerDecode (h : Vector Byte 9) : Option PktFields :=
  if valid h.toList then
    some { dst := assemble h[0] h[1], src := assemble h[2] h[3], rev := h[4], cmd := assemble h[5] h[6], nfr := h[7] }
  else none

/-- Logical byte `i`: wire byte `i` merged bitwise with the top bit that map bit `i` gives (R110, R172, R173). DESIGN CHOICE
(log 33): of a wire byte with bit 7 set, which R171 excludes, the OR of R110 and R170 keeps that bit, where R172's
`{f[4][i], f[i][6:0]}` would drop it. -/
def logicalByte (f : Vector Byte 6) (i : Fin 4) : Byte :=
  f[i.val] ||| (if f[4].getLsbD i.val then 0x80 else 0x00)

/-- `FrameDecode(f)`: `none` is `Reject`, else the four logical bytes (R170). -/
def frameDecode (f : Vector Byte 6) : Option (Vector Byte 4) :=
  if valid f.toList then some (Vector.ofFn (logicalByte f)) else none

/-- The low and the high wire byte of a 16-bit field (R117). -/
def lowByte (v : Half) : Byte := v.extractLsb' 0 8

/-- See `lowByte`. -/
def highByte (v : Half) : Byte := v.extractLsb' 8 8

/-- The first eight header bytes of `HDR d,s,r,c,n` (R117). -/
def hdrData (p : PktFields) : List Byte :=
  [lowByte p.dst, highByte p.dst, lowByte p.src, highByte p.src, p.rev, lowByte p.cmd, highByte p.cmd, p.nfr]

/-- The nine bytes of `HDR d,s,r,c,n` (R105, R117). -/
def hdrBytes (p : PktFields) : Vector Byte 9 :=
  #v[lowByte p.dst, highByte p.dst, lowByte p.src, highByte p.src, p.rev, lowByte p.cmd, highByte p.cmd, p.nfr,
    ck (hdrData p)]

/-- The map byte of four logical bytes: bit `i` is bit 7 of byte `i`, bits 7..4 are 0 (R108, R118). -/
def mapByte (l : Vector Byte 4) : Byte :=
  (if topBit l[0] then 1 else 0) ||| (if topBit l[1] then 2 else 0) ||| (if topBit l[2] then 4 else 0)
    ||| (if topBit l[3] then 8 else 0)

/-- The first five frame bytes of `FRM l0,l1,l2,l3` (R118). -/
def frmData (l : Vector Byte 4) : List Byte :=
  [l[0] &&& 0x7F, l[1] &&& 0x7F, l[2] &&& 0x7F, l[3] &&& 0x7F, mapByte l]

/-- The six bytes of `FRM l0,l1,l2,l3` (R108, R118). -/
def frmBytes (l : Vector Byte 4) : Vector Byte 6 :=
  #v[l[0] &&& 0x7F, l[1] &&& 0x7F, l[2] &&& 0x7F, l[3] &&& 0x7F, mapByte l, ck (frmData l)]

/-- A 16-bit field that wire bytes can carry: bits 7 and 15 are 0 (R47, R117). -/
def wireHalf (v : Half) : Bool := !v.getLsbD 7 && !v.getLsbD 15

/-- The header fields a header can carry (R47), the range of `HDR`'s arguments (R117). -/
def wireFields (p : PktFields) : Bool :=
  wireHalf p.dst && wireHalf p.src && !topBit p.rev && wireHalf p.cmd && !topBit p.nfr

end Sys2Proof
end

