-- ==== Sys2Proof/WellFormed.lean ====
section
/-!
DEFINITION. The operands opcode_table.json and the rules give each instruction. `Instr.wf m i`, for the marker value `m`,
is what the decoder produces and what the rules state a result for; the smoke tests in Tests/Slice0.lean show
one ill-formed term for each check.
-/

namespace Sys2Proof

/-- The instruction's operands are those of its row (R114 for the reader events; R41 for START's handler; R148 for
`Valid`; R162 and R171 for the decoders; R180 for `AcceptHeader`). -/
def Instr.wf (m : Byte) : Instr → Bool
  | .huntMarker _ => true
  | .huntSkip _ b => b != m
  | .hdrByte _ b => !topBit b
  | .hdrLast _ b => !topBit b
  | .hdrAbort _ b => topBit b
  | .frmByte _ b => !topBit b
  | .frmAbort _ b => topBit b
  | .frmLast _ _ => true
  | .rdEos _ => true
  | .rdErr _ _ => true
  | .deliver _ => true
  | .deliverRet _ => true
  | .register => true
  | .start _ _ handler _ => handler.isSome
  | .join _ => true
  | .tdRestore _ => true
  | .tdClose _ => true
  | .tdSentinel _ => true
  | .tdSentinelRet _ => true
  | .tdRelease _ => true
  | .valid s => !s.isEmpty
  | .ck _ => true
  | .headerDecode h => h.toList.all (fun b => !topBit b)
  | .frameDecode f => (f.toList.take 5).all (fun b => !topBit b)
  | .acceptHeader _ b => !topBit b
  | .acceptFrame _ _ => true
  | .abandon _ _ => true
  | .fatal _ _ => true

end Sys2Proof
end

