-- ==== Sys2Proof/Decode.lean ====
section
/-!
DEFINITION. The decoder and, after it, the encoder. What the block decodes is the wire (30_encoding.md): the event map
R114 selects, from the sequencer and one read result, the event that handles it. The encoder gives the read result an
event handles and the states the map selects it in, and expands the stream notation of R116 to R119. The numeric codes
of the enumerations (R32 to R34, R281) stand last.
-/

namespace Sys2Proof

/-- Why the decoder gives no event. -/
inductive DecodeError where
  /-- no byte is there to decode -/
  | noByte
  /-- in DELIVERING no read is issued, so no read result arrives (R115, R205) -/
  | noReadWhileDelivering
deriving DecidableEq, Repr

/-- The event map of R114 for a read result: marker value `m`, sequencer `q`, slot `k`. -/
def eventOf (m : Byte) (q : Sequencer) (k : Nat) : RdResult → Except DecodeError Instr
  | .eos => if q.fsm = .delivering then .error .noReadWhileDelivering else .ok (.rdEos k)
  | .err e => if q.fsm = .delivering then .error .noReadWhileDelivering else .ok (.rdErr k e)
  | .byte b =>
    match q.fsm with
    | .hunting => if b = m then .ok (.huntMarker k) else .ok (.huntSkip k b)
    | .readingHeader =>
      if topBit b then .ok (.hdrAbort k b) else if q.hcnt.val < 8 then .ok (.hdrByte k b) else .ok (.hdrLast k b)
    | .readingFrames =>
      if q.fpos.val < 5 then (if topBit b then .ok (.frmAbort k b) else .ok (.frmByte k b)) else .ok (.frmLast k b)
    | .delivering => .error .noReadWhileDelivering

/-- Decoding wire bytes in a given sequencer: one byte is consumed, the rest is returned. -/
def decodeBytes (m : Byte) (q : Sequencer) (k : Nat) : List Byte → Except DecodeError (Instr × List Byte)
  | [] => .error .noByte
  | b :: rest =>
    match eventOf m q k (.byte b) with
    | .ok i => .ok (i, rest)
    | .error e => .error e

/-- The bytes of a table word: byte 0 is bits 7..0; at least one byte, and the bits above `nbits` are 0. -/
def tableBytes (nbits w : Nat) : List Byte :=
  (List.range (max 1 (nbits / 8))).map (fun i => BitVec.ofNat 8 ((w % 2 ^ nbits) >>> (8 * i)))

/-- The sequencer a table word is read in: the first header byte (DESIGN CHOICE, log 24; the table gives five rows the
same two words, and only the reader state tells them apart). -/
def tableSequencer : Sequencer := { fsm := .readingHeader, hcnt := 0, fpos := 0 }

/-- The instruction the decoder reads from a word of the opcode table, in `tableSequencer`, for slot 0. -/
def decodeTableWord (nbits w : Nat) : Option Instr :=
  match decodeBytes Config.params.marker tableSequencer 0 (tableBytes nbits w) with
  | .ok (i, _) => some i
  | .error _ => none

/-- The read result a reader event handles (the input column of R114). -/
def encode (m : Byte) : Instr → Option RdResult
  | .huntMarker _ => some (.byte m)
  | .huntSkip _ b => some (.byte b)
  | .hdrByte _ b => some (.byte b)
  | .hdrLast _ b => some (.byte b)
  | .hdrAbort _ b => some (.byte b)
  | .frmByte _ b => some (.byte b)
  | .frmAbort _ b => some (.byte b)
  | .frmLast _ b => some (.byte b)
  | .rdEos _ => some .eos
  | .rdErr _ e => some (.err e)
  | .deliver _ => none
  | .deliverRet _ => none
  | .register => none
  | .start _ _ _ _ => none
  | .join _ => none
  | .tdRestore _ => none
  | .tdClose _ => none
  | .tdSentinel _ => none
  | .tdSentinelRet _ => none
  | .tdRelease _ => none
  | .valid _ => none
  | .ck _ => none
  | .headerDecode _ => none
  | .frameDecode _ => none
  | .acceptHeader _ _ => none
  | .acceptFrame _ _ => none
  | .abandon _ _ => none
  | .fatal _ _ => none

/-- The slot a reader event selected by a read belongs to; `none` for every other instruction. -/
def Instr.readSlot : Instr → Option Nat
  | .huntMarker k => some k
  | .huntSkip k _ => some k
  | .hdrByte k _ => some k
  | .hdrLast k _ => some k
  | .hdrAbort k _ => some k
  | .frmByte k _ => some k
  | .frmAbort k _ => some k
  | .frmLast k _ => some k
  | .rdEos k => some k
  | .rdErr k _ => some k
  | .deliver _ => none
  | .deliverRet _ => none
  | .register => none
  | .start _ _ _ _ => none
  | .join _ => none
  | .tdRestore _ => none
  | .tdClose _ => none
  | .tdSentinel _ => none
  | .tdSentinelRet _ => none
  | .tdRelease _ => none
  | .valid _ => none
  | .ck _ => none
  | .headerDecode _ => none
  | .frameDecode _ => none
  | .acceptHeader _ _ => none
  | .acceptFrame _ _ => none
  | .abandon _ _ => none
  | .fatal _ _ => none

/-- The state columns of R114 (`S.FSM`, `S.HCNT`, `S.FPOS`) for the events selected by a read. -/
def Sequencer.admits (q : Sequencer) : Instr → Bool
  | .huntMarker _ => decide (q.fsm = .hunting)
  | .huntSkip _ _ => decide (q.fsm = .hunting)
  | .hdrByte _ _ => decide (q.fsm = .readingHeader ∧ q.hcnt.val < 8)
  | .hdrLast _ _ => decide (q.fsm = .readingHeader ∧ q.hcnt.val = 8)
  | .hdrAbort _ _ => decide (q.fsm = .readingHeader)
  | .frmByte _ _ => decide (q.fsm = .readingFrames ∧ q.fpos.val < 5)
  | .frmAbort _ _ => decide (q.fsm = .readingFrames ∧ q.fpos.val < 5)
  | .frmLast _ _ => decide (q.fsm = .readingFrames ∧ q.fpos.val = 5)
  | .rdEos _ => decide (q.fsm ≠ .delivering)
  | .rdErr _ _ => decide (q.fsm ≠ .delivering)
  | .deliver _ => false
  | .deliverRet _ => false
  | .register => false
  | .start _ _ _ _ => false
  | .join _ => false
  | .tdRestore _ => false
  | .tdClose _ => false
  | .tdSentinel _ => false
  | .tdSentinelRet _ => false
  | .tdRelease _ => false
  | .valid _ => false
  | .ck _ => false
  | .headerDecode _ => false
  | .frameDecode _ => false
  | .acceptHeader _ _ => false
  | .acceptFrame _ _ => false
  | .abandon _ _ => false
  | .fatal _ _ => false

/-! ### The stream notation of R116 to R119 -/

/-- Why the notation refuses a token (U15, U23). -/
inductive EncodeError where
  /-- an argument of `HDR` or `PKT` out of range (R117, R119) -/
  | argumentOutOfRange
  /-- the byte given for `HX` is not a HIGH byte (R116) -/
  | notHigh
deriving DecidableEq, Repr

/-- The tokens of R116. `hx` carries the HIGH byte chosen for it (U15, log 29). -/
inductive Token where
  | mk
  | hx (b : Byte)
  | byte (b : Byte)
  | eos
  | err (e : ErrCode)
  | hdr (p : PktFields)
  | frm (l : Vector Byte 4)
  | pkt (dst src : Half) (rev : Byte) (cmd : Half) (pay : List Byte)
deriving DecidableEq, Repr

/-- A payload cut into the groups of four that the frames carry (R119); a remainder of fewer than four is dropped, and
`pktBytes` refuses such a payload before it is cut. -/
def groups : List Byte → List (Vector Byte 4)
  | a :: b :: c :: d :: rest => #v[a, b, c, d] :: groups rest
  | _ => []

/-- The bytes of `PKT d,s,r,c,[p0,...]` (R103, R119): marker, header, then the frames. -/
def pktBytes (m : Byte) (dst src : Half) (rev : Byte) (cmd : Half) (pay : List Byte) : Except EncodeError (List Byte) :=
  let f : PktFields := { dst := dst, src := src, rev := rev, cmd := cmd, nfr := BitVec.ofNat 8 (pay.length / 4) }
  if pay.length % 4 = 0 ∧ pay.length / 4 ≤ 127 ∧ wireFields f then
    .ok (m :: (hdrBytes f).toList ++ (groups pay).flatMap (fun l => (frmBytes l).toList))
  else .error .argumentOutOfRange

/-- The read results one token stands for (R116). -/
def Token.expand (m : Byte) : Token → Except EncodeError (List RdResult)
  | .mk => .ok [.byte m]
  | .hx b => if byteClass m b = .high then .ok [.byte b] else .error .notHigh
  | .byte b => .ok [.byte b]
  | .eos => .ok [.eos]
  | .err e => .ok [.err e]
  | .hdr p => if wireFields p then .ok ((hdrBytes p).toList.map .byte) else .error .argumentOutOfRange
  | .frm l => .ok ((frmBytes l).toList.map .byte)
  | .pkt dst src rev cmd pay =>
    match pktBytes m dst src rev cmd pay with
    | .ok bs => .ok (bs.map .byte)
    | .error e => .error e

/-- A stream is the concatenation of its tokens in order (R116). -/
def expandStream (m : Byte) : List Token → Except EncodeError (List RdResult)
  | [] => .ok []
  | t :: ts =>
    match t.expand m, expandStream m ts with
    | .ok a, .ok b => .ok (a ++ b)
    | .error e, _ => .error e
    | .ok _, .error e => .error e

/-! ### The spec's numeric codes -/

/-- The values of R32. -/
def Life.code : Life → Nat
  | .free => 0 | .running => 1 | .teardown => 2 | .stopped => 3

/-- The values of R33. -/
def Fsm.code : Fsm → Nat
  | .hunting => 0 | .readingHeader => 1 | .readingFrames => 2 | .delivering => 3

/-- The values of R34. -/
def Td.code : Td → Nat
  | .restore => 0 | .close => 1 | .sentinel => 2 | .release => 3

/-- Codes 0x01 to 0x05 of R281. -/
def AbandonCause.code : AbandonCause → Byte
  | .hdrTopbit => 0x01 | .hdrChecksum => 0x02 | .hdrAlloc => 0x03 | .frmTopbit => 0x04 | .frmChecksum => 0x05

/-- Codes 0x10 and 0x11 of R281. -/
def ExitValue.code : ExitValue → Byte
  | .endOfStream => 0x10 | .ioError _ => 0x11

/-- Codes 0x20 to 0x25 of R281. -/
def StartReason.code : StartReason → Byte
  | .notRegistered => 0x20 | .allocFailed => 0x21 | .openFailed => 0x22 | .configQueryFailed => 0x23
  | .configSetFailed => 0x24 | .launchFailed => 0x25

end Sys2Proof
end

