-- ==== Sys2Proof/Machine/State.lean ====
section
/-!
DEFINITION. The state of the machine as plain data: every field 10_state.md names, the environment's inputs that have
not been taken, and a record of what the block has done outside itself. With it the reasons a step can stop, and the
state right after hardware reset (10_state.md R52, 70_reset_and_hazards.md R320).
-/

namespace Sys2Proof.Machine

/-- Why the machine stops with a fault. -/
inductive Fault where
  /-- AcceptFrame writes a payload byte at an index at or above `4*MAX_FRAMES`, which R73 says does not exist. Raised by
  FRM_LAST and AcceptFrame in states no run reaches (R53(b), R283). Safe: the machine stops. -/
  | payloadIndexOutOfRange
deriving DecidableEq, Repr

/-- Why the model gives an instruction no meaning in a state. -/
inductive Refusal where
  /-- An instruction without a meaning; no arm of `exec` uses it. Safe: no run goes on from it. -/
  | notModelled (mnemonic : String)
  /-- A reader or teardown event, or an inner procedure, in a state whose columns in R114, R252 to R268 and R281 do not
  select it. Raised by those instructions. Safe: the rules give no effect there, and `step` never issues one (log 14). -/
  | eventNotSelected (mnemonic : String)
  /-- A JOIN with a handle of no live instance or one START has not returned yet, or a second JOIN of a handle (R255, U12).
  Raised by JOIN. Safe. -/
  | joinNotAdmitted
  /-- START with a null handler (R41, U17). Raised by START. Safe. -/
  | nullHandler
  /-- START that would put two instances on one device (R306, U11). Raised by START. Safe. -/
  | deviceShared
  /-- A read of the packet record outside a packet call (U4, R330). Raised by `handlerRead`. Safe. -/
  | handlerReadOutsideCall
deriving DecidableEq, Repr

/-- The payload buffer `S.PKT.PAY` (R70(b)): the bytes written, by index, indices strictly rising. An index that is not
listed holds an unspecified byte (U6, log 5). -/
abbrev PayBuf := List Host.Cell

/-- A handler call in progress (R202, R266): with the packet, or with the sentinel. -/
inductive CallKind where
  | packet | sentinel
deriving DecidableEq, Repr

/-- One instance slot: the fields `S.*` and `CFG.*` of 10_state.md. -/
structure Slot where
  /-- `S.LIFE` (R32) -/
  life : Life
  /-- `S.FSM` (R33) -/
  fsm : Fsm
  /-- `S.TD` (R34) -/
  td : Td
  /-- `S.HCNT` (R35) -/
  hcnt : Fin 9
  /-- `S.HBUF` (R36) -/
  hbuf : Vector Byte 9
  /-- `S.FPOS` (R37) -/
  fpos : Fin 6
  /-- `S.FBUF` (R38) -/
  fbuf : Vector Byte 6
  /-- `S.FIDX` (R39) -/
  fidx : Fin 128
  /-- `S.PKT` without its payload (R45) -/
  pkt : PktFields
  /-- `S.PKT.PAY` (R45, R73) -/
  pay : PayBuf
  /-- `S.PKT_LIVE` (R46) -/
  pktLive : Bool
  /-- `CFG.*` (R41) -/
  cfg : InstCfg
  /-- `S.DEV` (R42) -/
  dev : DevHandle
  /-- `S.DEV_OPEN` (R42) -/
  devOpen : Bool
  /-- `S.SAVED_CFG` (R42) -/
  savedCfg : DevConfig
  /-- `S.CFG_CHANGED` (R42) -/
  cfgChanged : Bool
  /-- `S.EXIT` (R43) -/
  exit : ExitValue
  /-- `S.SENTINEL_DONE` (R44) -/
  sentinelDone : Bool
  /-- the handler call in progress (R114, R202, R266; log 10) -/
  call : Option CallKind
  /-- the handle START returned for the instance (R242, R305; log 7) -/
  handle : Nat
  /-- START's `Ok` has not reached the host yet (R326; log 30) -/
  okPending : Bool
  /-- a JOIN of the handle waits (R253, R308; log 17) -/
  joinWait : Bool
  /-- the handle of the JOIN in which the handler call in progress waits (R334, U20; log 27) -/
  callJoin : Option Nat
  /-- the input byte stream: the device's answers not read yet, oldest first (R70(a), R72; log 9) -/
  stream : List RdResult
  /-- the abandon causes, newest first: the test trace R309 permits, read by no rule (log 12) -/
  causes : List AbandonCause
deriving DecidableEq, Repr

/-- A slot after hardware reset (R52): what R52 gives, and the values log 3 names where R52 says unspecified. -/
def Slot.reset : Slot where
  life := .free
  fsm := .hunting
  td := .restore
  hcnt := 0
  hbuf := Vector.replicate 9 0
  fpos := 0
  fbuf := Vector.replicate 6 0
  fidx := 0
  pkt := { dst := 0, src := 0, rev := 0, cmd := 0, nfr := 0 }
  pay := []
  pktLive := false
  cfg := { path := { id := 0 }, raw := false, handler := { id := 0 }, arg := { id := 0 } }
  dev := { id := 0 }
  devOpen := false
  savedCfg := { id := 0 }
  cfgChanged := false
  exit := .endOfStream
  sentinelDone := false
  call := none
  handle := 0
  okPending := false
  joinWait := false
  callJoin := none
  stream := []
  causes := []

/-- The environment's answers in one step (R300, D4, D14, D17, D28): each a free input of the model (log 16). -/
structure Answers where
  /-- the environment grants the slot START allocates (R244) -/
  slotGranted : Bool
  /-- `DevOpen`: the device, or failure -/
  openAns : Option DevHandle
  /-- `DevQueryCfg`: the configuration, or failure -/
  queryAns : Option DevConfig
  /-- `DevSetRaw` succeeds -/
  setRawOk : Bool
  /-- `Launch` succeeds -/
  launchOk : Bool
  /-- `DevSetCfg` succeeds -/
  restoreOk : Bool
  /-- `DevClose` succeeds -/
  closeOk : Bool
  /-- `AllocDraw` does not fail (R180, D4) -/
  allocOk : Bool
  /-- the handler call in progress returns now (D28) -/
  handlerReturns : Bool
  /-- what the device START opens will answer to reads (R72) -/
  stream : List RdResult
deriving DecidableEq, Repr

/-- Whose turn it is, with the environment's answers (R17, R292; log 8). -/
inductive Turn where
  /-- the host issues an operation, or the test bench a pure function (log 13) -/
  | op (i : Instr) (a : Answers)
  /-- the host receives `Ok(handle)`, the result of the START that launched the instance (R326) -/
  | startReturns (handle : Nat)
  /-- a context that waits in JOIN of this handle looks again (R253, R308) -/
  | wake (handle : Nat)
  /-- the handler whose call is in progress in slot `k` performs JOIN of this handle (R334, R298) -/
  | handlerJoin (k handle : Nat)
  /-- the worker of the instance in slot `k` moves -/
  | inst (k : Nat) (a : Answers)
  /-- hardware reset (R320) -/
  | hardwareReset
deriving DecidableEq, Repr

/-- What the block does outside itself (R80): handler calls, device operations with their answers (R300), and the
results of START and JOIN. -/
inductive Effect where
  /-- `DevOpen(path)` -/
  | devOpen (path : DevPath) (answer : Option DevHandle)
  /-- `DevQueryCfg(dev)` -/
  | devQueryCfg (dev : DevHandle) (answer : Option DevConfig)
  /-- `DevSetRaw(dev, RAW_BAUD)` -/
  | devSetRaw (dev : DevHandle) (baud : Baud) (ok : Bool)
  /-- `DevSetCfg(dev, saved)` -/
  | devSetCfg (dev : DevHandle) (saved : DevConfig) (ok : Bool)
  /-- `DevClose(dev)` -/
  | devClose (dev : DevHandle) (ok : Bool)
  /-- `Deliver(arg, p)` (R270) by the instance with this handle -/
  | deliver (handle : Nat) (handler : HandlerRef) (arg : HandlerArg) (p : Packet)
  /-- `DeliverSentinel(arg)` (R273) by the instance with this handle -/
  | sentinel (handle : Nat) (handler : HandlerRef) (arg : HandlerArg)
  /-- the host receives the result of START -/
  | startResult (r : StartResult)
  /-- JOIN of this handle answers its caller -/
  | joinResult (handle : Nat) (v : ExitValue)
deriving DecidableEq, Repr

/-- The result of a pure function. -/
inductive FnResult where
  | valid (r : Bool)
  | ck (r : Byte)
  | headerDecode (r : Option PktFields)
  | frameDecode (r : Option (Vector Byte 4))
deriving DecidableEq, Repr

/-- The machine. `registered` and `slots` are the spec's state; the rest is the model's (INVENTORY.md, State). -/
structure State where
  /-- the parameters of R8, never written (R87; log 1) -/
  params : Params
  /-- `REGISTERED` (R48) -/
  registered : Bool
  /-- the instance slots; a slot beyond the list reads as `Slot.reset` (log 6) -/
  slots : List Slot
  /-- the handle the next successful START returns (log 7) -/
  nextHandle : Nat
  /-- the turns not taken yet, oldest first (log 8) -/
  inputs : List Turn
  /-- the environment's answers in this step (log 16) -/
  ans : Answers
  /-- how many draws of free values have been made (log 4) -/
  draw : Nat
  /-- what the block has done outside itself, newest first (R80; log 11) -/
  effects : List Effect
  /-- the result of the last pure function called (log 13) -/
  fnResult : Option FnResult
deriving DecidableEq, Repr

/-- The answers at reset: every operation succeeds, no device delivers anything (DESIGN CHOICE, log 16; every turn
brings answers of its own). -/
def Answers.reset : Answers where
  slotGranted := true
  openAns := some { id := 0 }
  queryAns := some { id := 0 }
  setRawOk := true
  launchOk := true
  restoreOk := true
  closeOk := true
  allocOk := true
  handlerReturns := true
  stream := []

/-- Right after hardware reset (R52, R320): `REGISTERED = 0`, every slot FREE, no device held, no packet live. -/
def State.reset : State where
  params := Config.params
  registered := false
  slots := []
  nextHandle := 0
  inputs := []
  ans := Answers.reset
  draw := 0
  effects := []
  fnResult := none

end Sys2Proof.Machine
end

