-- ==== Sys2Proof/Machine/Ops.lean ====
section
/-!
DEFINITION. The named operations: the slot table, the payload buffer (20_memory.md R73), the handler's view of a packet,
and the block's two error actions, `Abandon` (60_exceptions.md R285) and `Fatal` (R287), each written once. There is no
return from either (R296). Then the acceptance procedures of 41_decoders.md and the device operations START and teardown
share.
-/

namespace Sys2Proof.Machine

/-- What an instruction answers. -/
abbrev Result := Host.Outcome State Fault Refusal

/-! ### The slot table -/

/-- Slot `k` of a table; a slot beyond the table is as after reset, so FREE (log 6). -/
def slotAt : List Slot → Nat → Slot
  | [], _ => Slot.reset
  | x :: _, 0 => x
  | _ :: xs, k + 1 => slotAt xs k

/-- The table with slot `k` replaced, grown where it is too short. -/
def setSlotAt : List Slot → Nat → Slot → List Slot
  | [], 0, x => [x]
  | [], k + 1, x => Slot.reset :: setSlotAt [] k x
  | _ :: ys, 0, x => x :: ys
  | y :: ys, k + 1, x => y :: setSlotAt ys k x

/-- The instance in slot `k` (the `S` of the rules). -/
def State.slot (s : State) (k : Nat) : Slot := slotAt s.slots k

/-- Writes slot `k`. -/
def State.setSlot (s : State) (k : Nat) (x : Slot) : State := { s with slots := setSlotAt s.slots k x }

/-- Records one effect outside the block (R80). -/
def State.emit (s : State) (e : Effect) : State := { s with effects := e :: s.effects }

/-- Moves to fresh free values (log 4). -/
def State.bump (s : State) : State := { s with draw := s.draw + 1 }

/-- Answers the caller of a pure function (log 13). -/
def State.answer (s : State) (r : FnResult) : State := { s with fnResult := some r }

/-- The lowest FREE slot, where MAX_INSTANCES leaves one and the environment grants it (R244; which FREE slot is taken
is not observable, log 6). -/
def State.allocSlot (s : State) : Option Nat :=
  let k := s.slots.findIdx (fun x => x.life == .free)
  if s.ans.slotGranted = false then none
  else match s.params.maxInstances with
    | none => some k
    | some n => if k < n then some k else none

/-- The slot of a live instance by its handle (R252); `none` where no instance that is RUNNING, in TEARDOWN or STOPPED
has it (R255). -/
def State.findHandle (s : State) (h : Nat) : Option Nat :=
  s.slots.findIdx? (fun x => x.life != .free && x.handle == h)

/-- The sequencer of an instance, as the event map reads it (R115). -/
def Slot.sequencer (x : Slot) : Sequencer := { fsm := x.fsm, hcnt := x.hcnt, fpos := x.fpos }

/-- An event of the instance in slot `k`: where the event's state columns `sel` hold, the slot becomes `act` of it;
elsewhere the event is refused (R114, log 14). -/
def State.fire (s : State) (k : Nat) (mnemonic : String) (sel : Slot → Bool) (act : Slot → Slot) : Result :=
  if sel (s.slot k) then .next (s.setSlot k (act (s.slot k))) else .refused (.eventNotSelected mnemonic)

/-- RUNNING in reader state `f` (R114). -/
def Slot.inFsm (f : Fsm) (x : Slot) : Bool := decide (x.life = .running ∧ x.fsm = f)

/-- In TEARDOWN at step `t` (R262 to R268). -/
def Slot.inTd (t : Td) (x : Slot) : Bool := decide (x.life = .teardown ∧ x.td = t)

/-! ### The payload buffer -/

/-- The byte written at index `i`, if any. -/
def PayBuf.read : PayBuf → Nat → Option Byte
  | [], _ => none
  | (j, w) :: m, i => if i = j then some w else PayBuf.read m i

/-- Writes index `i`, keeping the indices strictly rising. -/
def PayBuf.write : PayBuf → Nat → Byte → PayBuf
  | [], i, v => [(i, v)]
  | (j, w) :: m, i, v =>
    if i < j then (i, v) :: (j, w) :: m else if i = j then (i, v) :: m else (j, w) :: PayBuf.write m i v

/-- The canonical form: indices strictly rising. -/
abbrev PayBuf.wf (m : PayBuf) : Prop := m.Pairwise (fun a b => a.1 < b.1)

/-- `MemWrite(i, 1, v)`: defined for `0 <= i < 4*MAX_FRAMES` (R73). -/
def memWrite (p : Params) (m : PayBuf) (i : Nat) (v : Byte) : Except Fault PayBuf :=
  if i < 4 * p.maxFrames.val then .ok (PayBuf.write m i v) else .error .payloadIndexOutOfRange

/-- `MemWrite` of consecutive bytes from index `i` up. -/
def memWriteAll (p : Params) (m : PayBuf) (i : Nat) : List Byte → Except Fault PayBuf
  | [] => .ok m
  | v :: vs =>
    match memWrite p m i v with
    | .ok m' => memWriteAll p m' (i + 1) vs
    | .error e => .error e

/-- `MemRead(i, 1)`: the byte written, or the free byte of draw `n` where none was (R73, U6; log 5). -/
def memRead (n : Nat) (m : PayBuf) (i : Nat) : Byte := (PayBuf.read m i).getD (Config.freeByte n i)

/-- The packet record as the handler sees it (R84): its fields and `PAY[0 .. 4*NFR]`. -/
def Slot.packet (n : Nat) (x : Slot) : Packet :=
  { fields := x.pkt, payload := (List.range (4 * x.pkt.nfr.toNat)).map (memRead n x.pay) }

/-- The handler's read of payload index `i` during its packet call: at or above `4*NFR` the byte is unspecified (R73,
U5), outside a call the read is refused (U4, R271, R330; log 26). It has no side effect (R80). -/
def handlerRead (s : State) (k i : Nat) : Except Refusal Byte :=
  if (s.slot k).call = some .packet then
    if i < 4 * (s.slot k).pkt.nfr.toNat then .ok (memRead s.draw (s.slot k).pay i) else .ok (Config.freeByte s.draw i)
  else .error .handlerReadOutsideCall

/-! ### Unspecified contents -/

/-- Packet fields nothing constrains (R84, R203; U4, U24). -/
def freePkt (n : Nat) : PktFields :=
  { dst := Config.freeHalf n 0, src := Config.freeHalf n 1, rev := Config.freeByte n 512, cmd := Config.freeHalf n 2,
    nfr := Config.freeByte n 513 }

/-- `DELIVER_RET` releases the packet: its contents become unspecified (R73, R203). -/
def Slot.releasePacket (n : Nat) (x : Slot) : Slot := { x with pkt := freePkt n, pay := [] }

/-- `TD_RELEASE` releases the worker state: `CFG.*`, `S.DEV`, `S.SAVED_CFG`, the capture buffers and `S.PKT` become
unspecified (R268, U24; log 4). DESIGN CHOICE (log 32): `S.FSM`, `S.TD`, `S.HCNT`, `S.FPOS` and `S.FIDX`, which D29 and U24
leave unspecified too and R268's pseudocode does not name, keep their values. -/
def Slot.releaseWorker (n : Nat) (x : Slot) : Slot :=
  { x.releasePacket n with
    cfg := { path := { id := Config.freeNat n 0 }, raw := Config.freeBool n 0, handler := { id := Config.freeNat n 1 },
             arg := { id := Config.freeNat n 2 } }
    dev := { id := Config.freeNat n 3 }
    savedCfg := { id := Config.freeNat n 4 }
    hbuf := Vector.ofFn (fun i => Config.freeByte n (520 + i.val))
    fbuf := Vector.ofFn (fun i => Config.freeByte n (540 + i.val)) }

/-! ### The error actions -/

/-- `Abandon(cause)` (R285): the partial packet is discarded and the reader hunts; every other field keeps its value.
The cause goes to the trace that no rule reads (R309). -/
def Slot.abandon (cause : AbandonCause) (x : Slot) : Slot :=
  { x with pktLive := false, fsm := .hunting, causes := cause :: x.causes }

/-- `Fatal(v)` (R287): the reader has ended, teardown begins. -/
def Slot.fatal (v : ExitValue) (x : Slot) : Slot :=
  { x with exit := v, pktLive := false, life := .teardown, td := .restore }

/-- The reader state in which a cause is raised (R281, "raised by"). -/
def raisedIn : AbandonCause → Fsm
  | .hdrTopbit | .hdrChecksum | .hdrAlloc => .readingHeader
  | .frmTopbit | .frmChecksum => .readingFrames

/-! ### Acceptance -/

/-- `AcceptHeader(b)` (R180), in the order of R291: checksum, capacity, allocation draw. -/
def Slot.acceptHeader (p : Params) (allocOk : Bool) (b : Byte) (x : Slot) : Slot :=
  match headerDecode (x.hbuf.set 8 b) with
  | none => x.abandon .hdrChecksum
  | some f =>
    if p.maxFrames.val < f.nfr.toNat then x.abandon .hdrAlloc
    else if p.allocMayFail && !allocOk then x.abandon .hdrAlloc
    else if f.nfr = 0 then { x with pkt := f, pktLive := true, fsm := .delivering }
    else { x with pkt := f, pktLive := true, fidx := 0, fpos := 0, fsm := .readingFrames }

/-- `AcceptFrame(b)` (R181). The new `S.FIDX` is exact: a write that succeeds has `S.FIDX < MAX_FRAMES <= 127`. -/
def Slot.acceptFrame (p : Params) (b : Byte) (x : Slot) : Except Fault Slot :=
  match frameDecode (x.fbuf.set 5 b) with
  | none => .ok (x.abandon .frmChecksum)
  | some l =>
    match memWriteAll p x.pay (4 * x.fidx.val) l.toList with
    | .error e => .error e
    | .ok m =>
      if x.fidx.val + 1 = x.pkt.nfr.toNat then .ok { x with pay := m, fidx := x.fidx + 1, fsm := .delivering }
      else .ok { x with pay := m, fidx := x.fidx + 1, fpos := 0 }

/-- An event that accepts a frame, in slot `k`. -/
def State.fireFrame (s : State) (k : Nat) (mnemonic : String) (sel : Slot → Bool) (act : Slot → Except Fault Slot) :
    Result :=
  if sel (s.slot k) then
    match act (s.slot k) with
    | .ok x => .next (s.setSlot k x)
    | .error e => .fault e
  else .refused (.eventNotSelected mnemonic)

/-! ### Device operations -/

/-- `DevSetCfg(S.DEV, S.SAVED_CFG)` where the configuration was changed; its failure is ignored (R248, R262, R263). -/
def State.restoreCfg (s : State) (x : Slot) : State :=
  if x.cfgChanged then s.emit (.devSetCfg x.dev x.savedCfg s.ans.restoreOk) else s

/-- `DevClose(S.DEV)`; its failure is ignored (R248, R263, R264). -/
def State.closeDev (s : State) (x : Slot) : State := s.emit (.devClose x.dev s.ans.closeOk)

/-- Another live instance holds the device open: the same device, or the same path (R306, U11; log 19). -/
def State.sharesDevice (s : State) (path : DevPath) (dev : DevHandle) : Bool :=
  s.slots.any (fun y => y.life != .free && y.devOpen && (y.dev == dev || y.cfg.path == path))

/-! ### Waiting in JOIN -/

/-- JOIN of this handle would wait: its instance runs or is in teardown (R253). -/
def State.joinWaits (s : State) (h : Nat) : Bool :=
  match s.findHandle h with
  | none => false
  | some k => (s.slot k).life != .stopped

/-- The handler call in progress in slot `k` waits in JOIN of `h`, so it does not return (R334; log 27). -/
def State.holdCall (s : State) (k h : Nat) : State := s.setSlot k { s.slot k with callJoin := some h }

/-- A handler call that waits in JOIN of `h` waits no longer. -/
def Slot.resumeCall (h : Nat) (x : Slot) : Slot := if x.callJoin = some h then { x with callJoin := none } else x

/-- JOIN of `h` goes on: the handler call that waits in it, if one does, waits no longer (log 27). -/
def State.resumeCalls (s : State) (h : Nat) : State := { s with slots := s.slots.map (Slot.resumeCall h) }

/-- The handler call in progress returns now: the environment says so (D28), and it does not wait in a JOIN (R334). -/
def Slot.callReturns (a : Answers) (x : Slot) : Bool := a.handlerReturns && x.callJoin.isNone

/-! ### Hardware reset -/

/-- Hardware reset (R320): every slot FREE, `REGISTERED = 0`, running instances discarded without teardown. The
parameters stay, and so does what stands outside the block: the turns to come, the effects done, the handles used up
(no JOIN of an earlier handle is admitted afterwards) and the draws (log 23). DESIGN CHOICE, R320 being silent (log 31):
a handler call in progress is dropped with its slot, so that its later reads of the packet are refused and its return
is ignored, and so are a waiting JOIN and a START result on its way to the host. -/
def State.hardwareReset (s : State) : State := { s with registered := false, slots := [], fnResult := none }

end Sys2Proof.Machine
end

