-- ==== Sys2Proof/Machine/Functions.lean ====
section
/-!
DEFINITION. The pure functions as instructions (40_checksum.md, 41_decoders.md): they write no state of the block and answer
their caller. Then the inner procedures on their own, `AcceptHeader`, `AcceptFrame`, `Abandon` and `Fatal`: the same
shared operations the reader events run, in the states in which the rules run or raise them (log 15).
-/

namespace Sys2Proof.Machine

/-- Valid (R140, R148). DESIGN CHOICE: of no bytes the rules state no result, so the answer is a free value (log 20). -/
def execValid (span : List Byte) (s : State) : Result :=
  if span.isEmpty then .next (s.bump.answer (.valid (Config.freeBool s.draw 1)))
  else .next (s.answer (.valid (Sys2Proof.valid span)))

/-- Ck (R147). -/
def execCk (span : List Byte) (s : State) : Result := .next (s.answer (.ck (Sys2Proof.ck span)))

/-- HeaderDecode (R160); on bytes with bit 7 set, outside R162, it runs the same (DESIGN CHOICE, log 33). -/
def execHeaderDecode (h : Vector Byte 9) (s : State) : Result :=
  .next (s.answer (.headerDecode (Sys2Proof.headerDecode h)))

/-- FrameDecode (R170); on bytes 0 to 4 with bit 7 set, outside R171, it runs R170's pseudocode (DESIGN CHOICE, log 33). -/
def execFrameDecode (f : Vector Byte 6) (s : State) : Result :=
  .next (s.answer (.frameDecode (Sys2Proof.frameDecode f)))

/-- AcceptHeader (R180), run in the step that reads the ninth header byte, its top bit tested 0. -/
def execAcceptHeader (k : Nat) (b : Byte) (s : State) : Result :=
  s.fire k "AcceptHeader" (fun x => x.inFsm .readingHeader && !topBit b && decide (x.hcnt.val = 8))
    (Slot.acceptHeader s.params s.ans.allocOk b)

/-- AcceptFrame (R181), run in the step that reads frame byte 5. -/
def execAcceptFrame (k : Nat) (b : Byte) (s : State) : Result :=
  s.fireFrame k "AcceptFrame" (fun x => x.inFsm .readingFrames && decide (x.fpos.val = 5)) (Slot.acceptFrame s.params b)

/-- Abandon (R285), in the reader state in which R281 has its cause raised. -/
def execAbandon (k : Nat) (cause : AbandonCause) (s : State) : Result :=
  s.fire k "Abandon" (fun x => x.inFsm (raisedIn cause)) (Slot.abandon cause)

/-- Fatal (R287), in a reading state (R288). -/
def execFatal (k : Nat) (v : ExitValue) (s : State) : Result :=
  s.fire k "Fatal" (fun x => decide (x.life = .running ∧ x.fsm ≠ .delivering)) (Slot.fatal v)

end Sys2Proof.Machine
end

