-- ==== Sys2Proof/Machine/Lifecycle.lean ====
section
/-!
DEFINITION. The host operations of 43_lifecycle.md: REGISTER (R240), START (R242 to R249) and JOIN (R252 to R255).
-/

namespace Sys2Proof.Machine

/-- REGISTER (R240): idempotent. -/
def execRegister (s : State) : Result := .next { s with registered := true }

/-- START answers `Fail(reason)` (R290). -/
def State.startFails (s : State) (reason : StartReason) : State := s.emit (.startResult (.fail reason))

/-- The slot after START latched its parameters (R245): the device is held, its configuration not yet changed. -/
def Slot.latch (c : InstCfg) (dev : DevHandle) (x : Slot) : Slot :=
  { x with cfg := c, dev := dev, devOpen := true, cfgChanged := false }

/-- `Cleanup(S, opened)` and `Fail(reason)` (R248, D9): in reverse order the configuration is restored if it was changed,
the device closed if START opened it, and the slot freed; the freed slot holds no device (log 22). -/
def State.cleanup (s : State) (k : Nat) (x : Slot) (opened : Bool) (reason : StartReason) : State :=
  let s := s.restoreCfg x
  let s := if opened then s.closeDev x else s
  (s.setSlot k { x with cfgChanged := false, devOpen := false, life := .free }).startFails reason

/-- The start values of an instance (R242, R52, R322): hunting, counters 0, no packet live, no sentinel made. -/
def Slot.launch (handle : Nat) (stream : List RdResult) (x : Slot) : Slot :=
  { x with fsm := .hunting, hcnt := 0, fpos := 0, fidx := 0, pktLive := false, sentinelDone := false, life := .running,
           call := none, handle := handle, okPending := true, joinWait := false, callJoin := none, stream := stream,
           causes := [] }

/-- The last part of START (R247): `Launch`; the reader runs from here, and `Ok(handle)` is on its way to the host (R326, log
30). Two instances on one device are refused (U11). -/
def State.launch (s : State) (k : Nat) (x : Slot) (opened : Bool) : Result :=
  if s.ans.launchOk = false then .next (s.cleanup k x opened .launchFailed)
  else if s.sharesDevice x.cfg.path x.dev then .refused .deviceShared
  else .next { s.setSlot k (x.launch s.nextHandle s.ans.stream) with nextHandle := s.nextHandle + 1 }

/-- The host receives `Ok(handle)` of the START that launched the instance, once (R242, R326; log 30). -/
def State.startReturns (s : State) (h : Nat) : State :=
  match s.findHandle h with
  | none => s
  | some k =>
    if (s.slot k).okPending then (s.setSlot k { s.slot k with okPending := false }).emit (.startResult (.ok h)) else s

/-- START from the latched slot on (R246): with `raw = 1` the configuration is queried, saved and set raw. -/
def State.configure (s : State) (k : Nat) (x : Slot) (opened : Bool) : Result :=
  if x.cfg.raw = false then s.launch k x opened
  else match s.ans.queryAns with
    | none => .next ((s.emit (.devQueryCfg x.dev none)).cleanup k x opened .configQueryFailed)
    | some q =>
      let s' := (s.emit (.devQueryCfg x.dev (some q))).emit (.devSetRaw x.dev s.params.rawBaud s.ans.setRawOk)
      if s.ans.setRawOk = false then .next (s'.cleanup k { x with savedCfg := q } opened .configSetFailed)
      else s'.launch k { x with savedCfg := q, cfgChanged := true } opened

/-- START from the opened device on: a null handler is refused (U17), else the parameters are latched (R245). -/
def State.startOn (s : State) (k : Nat) (path : DevPath) (raw : Bool) (handler : Option HandlerRef) (arg : HandlerArg)
    (dev : DevHandle) (opened : Bool) : Result :=
  match handler with
  | none => .refused .nullHandler
  | some h =>
    s.configure k ((s.slot k).latch { path := path, raw := raw, handler := h, arg := arg } dev) opened

/-- START (R242): the checks in the order of D9. -/
def execStart (path : DevPath) (raw : Bool) (handler : Option HandlerRef) (arg : HandlerArg) (s : State) : Result :=
  if s.registered = false then .next (s.startFails .notRegistered)
  else match s.allocSlot with
    | none => .next (s.startFails .allocFailed)
    | some k =>
      if path = s.params.stdStreamPath then s.startOn k path raw handler arg s.params.stdStream false
      else
        let s' := s.emit (.devOpen path s.ans.openAns)
        match s.ans.openAns with
        | none => .next (s'.startFails .openFailed)
        | some dev => s'.startOn k path raw handler arg dev true

/-- JOIN (R252): of a STOPPED instance it returns the exit value and frees the slot; of one that runs or is in teardown
it waits (R253). A second JOIN of the handle while one waits is refused, as is a JOIN of no live handle or of one that no START
has returned yet (R255, U12). -/
def execJoin (handle : Nat) (s : State) : Result :=
  match s.findHandle handle with
  | none => .refused .joinNotAdmitted
  | some k =>
    let x := s.slot k
    if x.okPending || x.joinWait then .refused .joinNotAdmitted
    else if x.life = .stopped then .next ((s.setSlot k { x with life := .free }).emit (.joinResult handle x.exit))
    else .next (s.setSlot k { x with joinWait := true })

end Sys2Proof.Machine
end

