-- ==== Sys2Proof/Machine/Reader.lean ====
section
/-!
DEFINITION. The Synchronizing Reader (42_reader.md): one meaning for each reader event of R114. The read result has been
taken from the stream before an event runs (Machine/Fetch.lean); an event in a state that does not select it is refused.
-/

namespace Sys2Proof.Machine

/-- HUNT_MARKER (R191): a header begins; the marker is not stored. -/
def execHuntMarker (k : Nat) (s : State) : Result :=
  s.fire k "HUNT_MARKER" (Slot.inFsm .hunting) (fun x => { x with hcnt := 0, fsm := .readingHeader })

/-- HUNT_SKIP (R195): the byte is discarded and no state changes. -/
def execHuntSkip (k : Nat) (b : Byte) (s : State) : Result :=
  s.fire k "HUNT_SKIP" (fun x => x.inFsm .hunting && b != s.params.marker) id

/-- HDR_BYTE (R192). -/
def execHdrByte (k : Nat) (b : Byte) (s : State) : Result :=
  s.fire k "HDR_BYTE" (fun x => x.inFsm .readingHeader && !topBit b && decide (x.hcnt.val < 8))
    (fun x => { x with hbuf := x.hbuf.set x.hcnt.val b x.hcnt.isLt, hcnt := x.hcnt + 1 })

/-- HDR_LAST (R193): the ninth byte is stored and the header accepted or abandoned (R180). -/
def execHdrLast (k : Nat) (b : Byte) (s : State) : Result :=
  s.fire k "HDR_LAST" (fun x => x.inFsm .readingHeader && !topBit b && decide (x.hcnt.val = 8))
    (fun x => Slot.acceptHeader s.params s.ans.allocOk b { x with hbuf := x.hbuf.set 8 b })

/-- HDR_ABORT (R194): the byte is not stored. -/
def execHdrAbort (k : Nat) (b : Byte) (s : State) : Result :=
  s.fire k "HDR_ABORT" (fun x => x.inFsm .readingHeader && topBit b) (Slot.abandon .hdrTopbit)

/-- FRM_BYTE (R196). -/
def execFrmByte (k : Nat) (b : Byte) (s : State) : Result :=
  s.fire k "FRM_BYTE" (fun x => x.inFsm .readingFrames && !topBit b && decide (x.fpos.val < 5))
    (fun x => { x with fbuf := x.fbuf.set x.fpos.val b x.fpos.isLt, fpos := x.fpos + 1 })

/-- FRM_ABORT (R197): the whole packet is dropped. -/
def execFrmAbort (k : Nat) (b : Byte) (s : State) : Result :=
  s.fire k "FRM_ABORT" (fun x => x.inFsm .readingFrames && topBit b && decide (x.fpos.val < 5)) (Slot.abandon .frmTopbit)

/-- FRM_LAST (R198, R199): the sixth byte is stored, whatever its top bit, and the frame accepted or the packet
abandoned (R181). -/
def execFrmLast (k : Nat) (b : Byte) (s : State) : Result :=
  s.fireFrame k "FRM_LAST" (fun x => x.inFsm .readingFrames && decide (x.fpos.val = 5))
    (fun x => Slot.acceptFrame s.params b { x with fbuf := x.fbuf.set 5 b })

/-- RUNNING in one of the three reading states (R190). -/
def Slot.reading (x : Slot) : Bool := decide (x.life = .running ∧ x.fsm ≠ .delivering)

/-- RD_EOS (R200). -/
def execRdEos (k : Nat) (s : State) : Result := s.fire k "RD_EOS" Slot.reading (Slot.fatal .endOfStream)

/-- RD_ERR (R201): the device's code is carried unchanged. -/
def execRdErr (k : Nat) (e : ErrCode) (s : State) : Result :=
  s.fire k "RD_ERR" Slot.reading (Slot.fatal (.ioError e))

/-- DELIVER (R202): the handler is called with the packet; the call is now in progress. -/
def execDeliver (k : Nat) (s : State) : Result :=
  let x := s.slot k
  (s.emit (.deliver x.handle x.cfg.handler x.cfg.arg (x.packet s.draw))).fire k "DELIVER"
    (fun x => x.inFsm .delivering && decide (x.call = none)) (fun x => { x with call := some .packet })

/-- DELIVER_RET (R203): the handler has returned, so it waits in no JOIN (R334); the packet is released and its contents become
unspecified. -/
def execDeliverRet (k : Nat) (s : State) : Result :=
  s.bump.fire k "DELIVER_RET" (fun x => x.inFsm .delivering && decide (x.call = some .packet ∧ x.callJoin = none))
    (fun x => { x.releasePacket s.draw with call := none, pktLive := false, fsm := .hunting })

end Sys2Proof.Machine
end

