-- ==== Sys2Proof/Machine/Teardown.lean ====
section
/-!
DEFINITION. Teardown (43_lifecycle.md R260 to R268), in the order of R261: restore, close, sentinel and its return, release.
-/

namespace Sys2Proof.Machine

/-- TD_RESTORE (R262): the saved configuration goes back if it was changed; a failure is ignored (R263). -/
def execTdRestore (k : Nat) (s : State) : Result :=
  (s.restoreCfg (s.slot k)).fire k "TD_RESTORE" (Slot.inTd .restore) (fun x => { x with cfgChanged := false, td := .close })

/-- TD_CLOSE (R264): the device is closed, the standard stream too; a failure is ignored (R263). -/
def execTdClose (k : Nat) (s : State) : Result :=
  (s.closeDev (s.slot k)).fire k "TD_CLOSE" (Slot.inTd .close) (fun x => { x with devOpen := false, td := .sentinel })

/-- TD_SENTINEL (R266): the handler is called with the sentinel; the call is now in progress. -/
def execTdSentinel (k : Nat) (s : State) : Result :=
  let x := s.slot k
  (s.emit (.sentinel x.handle x.cfg.handler x.cfg.arg)).fire k "TD_SENTINEL"
    (fun x => x.inTd .sentinel && !x.sentinelDone && decide (x.call = none)) (fun x => { x with call := some .sentinel })

/-- TD_SENTINEL_RET (R267): the sentinel call has returned, so its handler waits in no JOIN (R334). -/
def execTdSentinelRet (k : Nat) (s : State) : Result :=
  s.fire k "TD_SENTINEL_RET" (fun x => x.inTd .sentinel && decide (x.call = some .sentinel ∧ x.callJoin = none))
    (fun x => { x with call := none, sentinelDone := true, td := .release })

/-- TD_RELEASE (R268): the worker state becomes unspecified (logs 4 and 32), the instance is STOPPED, `S.EXIT` is kept. -/
def execTdRelease (k : Nat) (s : State) : Result :=
  s.bump.fire k "TD_RELEASE" (Slot.inTd .release) (fun x => { x.releaseWorker s.draw with life := .stopped })

end Sys2Proof.Machine
end

