-- ==== Sys2Proof/Machine/Dispatch.lean ====
section
/-!
DEFINITION. One arm per instruction, each one direct call of its meaning.
-/

namespace Sys2Proof.Machine

def exec (i : Instr) (s : State) : Host.Outcome State Fault Refusal :=
  match i with
  | .huntMarker k => Sys2Proof.Machine.execHuntMarker k s
  | .huntSkip k b => Sys2Proof.Machine.execHuntSkip k b s
  | .hdrByte k b => Sys2Proof.Machine.execHdrByte k b s
  | .hdrLast k b => Sys2Proof.Machine.execHdrLast k b s
  | .hdrAbort k b => Sys2Proof.Machine.execHdrAbort k b s
  | .frmByte k b => Sys2Proof.Machine.execFrmByte k b s
  | .frmAbort k b => Sys2Proof.Machine.execFrmAbort k b s
  | .frmLast k b => Sys2Proof.Machine.execFrmLast k b s
  | .rdEos k => Sys2Proof.Machine.execRdEos k s
  | .rdErr k e => Sys2Proof.Machine.execRdErr k e s
  | .deliver k => Sys2Proof.Machine.execDeliver k s
  | .deliverRet k => Sys2Proof.Machine.execDeliverRet k s
  | .register => Sys2Proof.Machine.execRegister s
  | .start path raw handler arg => Sys2Proof.Machine.execStart path raw handler arg s
  | .join handle => Sys2Proof.Machine.execJoin handle s
  | .tdRestore k => Sys2Proof.Machine.execTdRestore k s
  | .tdClose k => Sys2Proof.Machine.execTdClose k s
  | .tdSentinel k => Sys2Proof.Machine.execTdSentinel k s
  | .tdSentinelRet k => Sys2Proof.Machine.execTdSentinelRet k s
  | .tdRelease k => Sys2Proof.Machine.execTdRelease k s
  | .valid span => Sys2Proof.Machine.execValid span s
  | .ck span => Sys2Proof.Machine.execCk span s
  | .headerDecode h => Sys2Proof.Machine.execHeaderDecode h s
  | .frameDecode f => Sys2Proof.Machine.execFrameDecode f s
  | .acceptHeader k b => Sys2Proof.Machine.execAcceptHeader k b s
  | .acceptFrame k b => Sys2Proof.Machine.execAcceptFrame k b s
  | .abandon k cause => Sys2Proof.Machine.execAbandon k cause s
  | .fatal k v => Sys2Proof.Machine.execFatal k v s

end Sys2Proof.Machine
end

