-- ==== Sys2Proof/Machine/Fetch.lean ====
section
/-!
DEFINITION. Selecting the next instruction. There is no program counter and no instruction fetch (10_state.md R31, 20_memory.md
R87): the oldest turn says which agent moves (R17, R292), and the state of that agent, with the read result its device
answers, selects the event (R114, R190, R261). An agent that waits makes no event: a read without an answer (R15, U19), a
handler call that does not return (R333, U18) or waits in a JOIN itself (R334, U20), a JOIN (R253). Such a turn passes and nothing of the block changes.
-/

namespace Sys2Proof.Machine

/-- What a turn comes to: an instruction to run in a state, or no instruction at all. -/
inductive Fetched where
  | run (i : Instr) (t : State)
  | idle (t : State)
deriving DecidableEq, Repr

/-- What comes from outside the block: the host operations, and the pure functions a test bench calls (log 13). The
events of an instance and the inner procedures do not. -/
def fromOutside : Instr → Bool
  | .register => true
  | .start _ _ _ _ => true
  | .join _ => true
  | .valid _ => true
  | .ck _ => true
  | .headerDecode _ => true
  | .frameDecode _ => true
  | _ => false

/-- The read of an instance in a reading state (R190): its device's next answer is consumed (R71, R204) and the event
map selects the event. -/
def fetchRead (k : Nat) (t : State) : Fetched :=
  match (t.slot k).stream with
  | [] => .idle t
  | r :: rest =>
    match eventOf t.params.marker (t.slot k).sequencer k r with
    | .ok i => .run i (t.setSlot k { t.slot k with stream := rest })
    | .error _ => .idle t

/-- The next event of the instance in slot `k`. -/
def fetchInst (k : Nat) (t : State) : Fetched :=
  let x := t.slot k
  match x.life with
  | .free => .idle t
  | .stopped => .idle t
  | .running =>
    match x.fsm with
    | .delivering =>
      match x.call with
      | none => .run (.deliver k) t
      | some .packet => if x.callReturns t.ans then .run (.deliverRet k) t else .idle t
      | some .sentinel => .idle t
    | _ => fetchRead k t
  | .teardown =>
    match x.td with
    | .restore => .run (.tdRestore k) t
    | .close => .run (.tdClose k) t
    | .sentinel =>
      match x.call with
      | none => if x.sentinelDone then .idle t else .run (.tdSentinel k) t
      | some .sentinel => if x.callReturns t.ans then .run (.tdSentinelRet k) t else .idle t
      | some .packet => .idle t
    | .release => .run (.tdRelease k) t

/-- A JOIN that waits looks again: once its instance is STOPPED it waits no longer and goes on (R253, R308; log 17), and so
does the handler call that waits in it, if one does (log 27). -/
def fetchWake (h : Nat) (t : State) : Fetched :=
  match t.findHandle h with
  | none => .idle t
  | some k =>
    if (t.slot k).life = .stopped ∧ (t.slot k).joinWait then
      .run (.join h) ((t.setSlot k { t.slot k with joinWait := false }).resumeCalls h)
    else .idle t

/-- The handler whose call is in progress in slot `k` performs a JOIN; where the JOIN waits, so does the call (R334, U20; log
27). Where no call is in progress, or the call waits already, no handler acts. -/
def fetchHandlerJoin (k h : Nat) (t : State) : Fetched :=
  if (t.slot k).call ≠ none ∧ (t.slot k).callJoin = none then
    .run (.join h) (if t.joinWaits h then t.holdCall k h else t)
  else .idle t

/-- The oldest turn is taken. With no turn the machine holds. -/
def fetch (s : State) : Fetched :=
  match s.inputs with
  | [] => .idle s
  | .op i a :: rest =>
    if fromOutside i then .run i { s with inputs := rest, ans := a } else .idle { s with inputs := rest, ans := a }
  | .startReturns h :: rest => .idle ({ s with inputs := rest }.startReturns h)
  | .wake h :: rest => fetchWake h { s with inputs := rest }
  | .handlerJoin k h :: rest => fetchHandlerJoin k h { s with inputs := rest }
  | .inst k a :: rest => fetchInst k { s with inputs := rest, ans := a }
  | .hardwareReset :: rest => .idle { s with inputs := rest }.hardwareReset

/-- The state with these bytes as the next the reader of slot 0 reads, that reader at its first header byte, and the
next turn its own (log 24). -/
def placeBytes (s : State) (bytes : List Byte) : State :=
  { s.setSlot 0 { s.slot 0 with
      life := .running, fsm := tableSequencer.fsm, hcnt := tableSequencer.hcnt,
      stream := bytes.map .byte ++ (s.slot 0).stream } with
    inputs := .inst 0 s.ans :: s.inputs }

end Sys2Proof.Machine
end

