-- ==== Sys2Proof/Machine/Step.lean ====
section
/-!
DEFINITION. One step: the oldest turn selects at most one instruction, and that instruction runs (00_scope.md R15). A turn
whose agent waits, and a machine without turns, go to the next state with nothing of the block changed (R308, R333).
-/

namespace Sys2Proof.Machine

def step (s : State) : Host.Outcome State Fault Refusal :=
  match fetch s with
  | .run i t => exec i t
  | .idle t => .next t

/-- `s` with a word of the opcode table as what the next step reads and runs (log 24). -/
def State.withFetchWord (s : State) (nbits w : Nat) : State := placeBytes s (tableBytes nbits w)

end Sys2Proof.Machine
end

