-- ==== Sys2Proof/Safety.lean ====
section
/-!
DEFINITION. The vocabulary of the claims: the invariants of the block (10_state.md R53 and the lifecycle rules), the record of
handler calls read from `State.effects`, and the relations in which independence (60_exceptions.md R305) and the precision of
Abandon (R286) are said. Each invariant is made of decidable parts,
so that a witness state can be checked.
-/

namespace Sys2Proof.Machine

/-- An instance exists in the slot: RUNNING, in TEARDOWN or STOPPED (R32). -/
abbrev Slot.live (x : Slot) : Prop := x.life ≠ .free

/-! ### The invariant of one slot -/

/-- The first `n` payload bytes have been written (R53(c)). -/
abbrev PayBuf.writtenBelow (m : PayBuf) (n : Nat) : Prop := ∀ i < n, (PayBuf.read m i).isSome

/-- R53: what holds in each reader state while the instance runs, with what makes it inductive: payload bytes of the
frames accepted so far are written, and the captured header and frame bytes have top bit 0 (R36, R38). -/
abbrev Slot.readerInv (p : Params) (x : Slot) : Prop :=
  x.life = .running →
    (x.fsm = .hunting → x.pktLive = false) ∧
    (x.fsm = .readingHeader → x.hcnt.val ≤ 8 ∧ x.pktLive = false ∧ ∀ i < x.hcnt.val, topBit (x.hbuf.toList.getD i 0) = false) ∧
    (x.fsm = .readingFrames →
      x.pktLive = true ∧ 1 ≤ x.pkt.nfr.toNat ∧ x.pkt.nfr.toNat ≤ p.maxFrames.val ∧ x.fidx.val < x.pkt.nfr.toNat ∧ x.fpos.val ≤ 5 ∧
      PayBuf.writtenBelow x.pay (4 * x.fidx.val) ∧ ∀ i < x.fpos.val, topBit (x.fbuf.toList.getD i 0) = false) ∧
    (x.fsm = .delivering →
      x.pktLive = true ∧ x.pkt.nfr.toNat ≤ p.maxFrames.val ∧ PayBuf.writtenBelow x.pay (4 * x.pkt.nfr.toNat))

/-- R47: while a packet is live its header fields are ones that wire bytes can carry. -/
abbrev Slot.fieldsInv (x : Slot) : Prop := x.pktLive = true → wireFields x.pkt = true

/-- The payload buffer is in canonical form and lists only indices that exist (R73). -/
abbrev Slot.payInv (p : Params) (x : Slot) : Prop := PayBuf.wf x.pay ∧ ∀ c ∈ x.pay, c.1 < 4 * p.maxFrames.val

/-- A packet call is in progress only in DELIVERING, a sentinel call only in TD_SENTINEL (R82, R266), and a handler waits in a JOIN
only inside its call (R334). -/
abbrev Slot.callInv (x : Slot) : Prop :=
  (x.call = some .packet → x.life = .running ∧ x.fsm = .delivering) ∧
  (x.call = some .sentinel → x.life = .teardown ∧ x.td = .sentinel) ∧
  (x.callJoin ≠ none → x.call ≠ none)

/-- The device, configuration and sentinel bits follow the lifecycle (R42, R44, R261, R254; those of a FREE slot after
a failed START are the model's, log 22). -/
abbrev Slot.lifeInv (x : Slot) : Prop :=
  (x.life = .free → x.devOpen = false ∧ x.cfgChanged = false ∧ x.pktLive = false) ∧
  (x.life = .running → x.devOpen = true ∧ x.sentinelDone = false ∧ (x.cfgChanged = true → x.cfg.raw = true)) ∧
  (x.life = .teardown → x.pktLive = false ∧
    (x.td = .restore → x.devOpen = true ∧ x.sentinelDone = false) ∧
    (x.td = .close → x.devOpen = true ∧ x.cfgChanged = false ∧ x.sentinelDone = false) ∧
    (x.td = .sentinel → x.devOpen = false ∧ x.cfgChanged = false ∧ x.sentinelDone = false) ∧
    (x.td = .release → x.devOpen = false ∧ x.cfgChanged = false ∧ x.sentinelDone = true)) ∧
  (x.life = .stopped → x.pktLive = false ∧ x.devOpen = false ∧ x.cfgChanged = false ∧ x.sentinelDone = true)

/-- Nothing waits on a FREE slot, and no JOIN waits for an instance whose START has not returned (R253, R326). -/
abbrev Slot.waitInv (x : Slot) : Prop :=
  (x.life = .free → x.okPending = false ∧ x.joinWait = false) ∧
  (x.joinWait = true → x.okPending = false)

/-- The invariant of one slot. -/
abbrev Slot.inv (p : Params) (x : Slot) : Prop :=
  x.readerInv p ∧ x.fieldsInv ∧ x.payInv p ∧ x.callInv ∧ x.lifeInv ∧ x.waitInv

/-- Every slot has its invariant (a slot beyond the table is as after reset, and has it too). -/
abbrev State.slotsInv (s : State) : Prop := ∀ x ∈ s.slots, x.inv s.params

/-! ### Handles and the number of instances -/

/-- Live instances have distinct handles, all of them used up (R305), and stand in slots MAX_INSTANCES allows (R244). -/
abbrev State.handlesInv (s : State) : Prop :=
  (∀ i < s.slots.length, (s.slot i).live → (s.slot i).handle < s.nextHandle) ∧
  (∀ i < s.slots.length, ∀ j < s.slots.length, (s.slot i).live → (s.slot j).live →
    (s.slot i).handle = (s.slot j).handle → i = j) ∧
  (∀ i < s.slots.length, (s.slot i).live → ∀ n ∈ s.params.maxInstances, i < n)

/-! ### The record of handler calls -/

/-- The handle of the instance that makes the handler call, for an effect that is one (R270, R273). -/
def Effect.callOf : Effect → Option Nat
  | .deliver h _ _ _ => some h
  | .sentinel h _ _ => some h
  | .devOpen _ _ => none
  | .devQueryCfg _ _ => none
  | .devSetRaw _ _ _ => none
  | .devSetCfg _ _ _ => none
  | .devClose _ _ => none
  | .startResult _ => none
  | .joinResult _ _ => none

/-- The handle of the instance whose sentinel call this is. -/
def Effect.sentinelOf : Effect → Option Nat
  | .sentinel h _ _ => some h
  | .deliver _ _ _ _ => none
  | .devOpen _ _ => none
  | .devQueryCfg _ _ => none
  | .devSetRaw _ _ _ => none
  | .devSetCfg _ _ _ => none
  | .devClose _ _ => none
  | .startResult _ => none
  | .joinResult _ _ => none

/-- How many sentinel calls the instance with handle `h` has made. -/
def sentinelCount (h : Nat) (es : List Effect) : Nat := es.countP (fun e => e.sentinelOf == some h)

/-- In a record with the newest effect first, no handler call of an instance follows its sentinel call (R269). -/
abbrev quietAfterSentinel (es : List Effect) : Prop :=
  es.Pairwise (fun newer older => ∀ h ∈ newer.callOf, older.sentinelOf ≠ some h)

/-- The sentinel call of the instance in the slot has begun (R266, R267). -/
abbrev Slot.sentinelBegun (x : Slot) : Prop := x.call = some .sentinel ∨ x.sentinelDone = true

/-- Exactly-once bookkeeping of the sentinel (R269): calls come only from handles used up, none follows a sentinel of its
handle, and a live instance has made one sentinel call where it has begun it and none before. -/
abbrev State.sentinelInv (s : State) : Prop :=
  (∀ e ∈ s.effects, ∀ h ∈ e.callOf, h < s.nextHandle) ∧
  quietAfterSentinel s.effects ∧
  (∀ i < s.slots.length, (s.slot i).live → (s.slot i).sentinelBegun → sentinelCount (s.slot i).handle s.effects = 1) ∧
  (∀ i < s.slots.length, (s.slot i).live → ¬ (s.slot i).sentinelBegun → sentinelCount (s.slot i).handle s.effects = 0)

/-- The invariant of the machine. -/
abbrev State.inv (s : State) : Prop := s.slotsInv ∧ s.handlesInv ∧ s.sentinelInv

/-! ### Words of the claims -/

/-- The instance an instruction belongs to; `none` for host operations and pure functions. -/
def instanceOf : Instr → Option Nat
  | .huntMarker k => some k
  | .huntSkip k _ => some k
  | .hdrByte k _ => some k
  | .hdrLast k _ => some k
  | .hdrAbort k _ => some k
  | .frmByte k _ => some k
  | .frmAbort k _ => some k
  | .frmLast k _ => some k
  | .rdEos k => some k
  | .rdErr k _ => some k
  | .deliver k => some k
  | .deliverRet k => some k
  | .register => none
  | .start _ _ _ _ => none
  | .join _ => none
  | .tdRestore k => some k
  | .tdClose k => some k
  | .tdSentinel k => some k
  | .tdSentinelRet k => some k
  | .tdRelease k => some k
  | .valid _ => none
  | .ck _ => none
  | .headerDecode _ => none
  | .frameDecode _ => none
  | .acceptHeader k _ => some k
  | .acceptFrame k _ => some k
  | .abandon k _ => some k
  | .fatal k _ => some k

/-- START of this path opens this device: the standard stream as is, any other by `DevOpen` (R244). -/
def State.opensAs (s : State) (path : DevPath) (dev : DevHandle) : Prop :=
  (path = s.params.stdStreamPath ∧ dev = s.params.stdStream) ∨
  (path ≠ s.params.stdStreamPath ∧ s.ans.openAns = some dev)

/-- What START has done outside the block when the device is open (R244): `DevOpen`, unless it is the standard stream. -/
def State.openEffects (s : State) (path : DevPath) (dev : DevHandle) : List Effect :=
  if path = s.params.stdStreamPath then [] else [.devOpen path (some dev)]

/-- What a failed START does to the device it has: it is closed if START opened it (R248). -/
def State.closeEffects (s : State) (path : DevPath) (dev : DevHandle) : List Effect :=
  if path = s.params.stdStreamPath then [] else [.devClose dev s.ans.closeOk]

/-- START takes slot `k` (R244): the environment grants it, `k` is the lowest FREE slot, and MAX_INSTANCES allows it. -/
def State.takesSlot (s : State) (k : Nat) : Prop :=
  s.ans.slotGranted = true ∧ (s.slot k).life = .free ∧ (∀ j < k, (s.slot j).live) ∧ ∀ n ∈ s.params.maxInstances, k < n

/-- START finds no slot (R244): the environment refuses it, or every slot MAX_INSTANCES allows is taken. -/
def State.noSlot (s : State) : Prop :=
  s.ans.slotGranted = false ∨ ∃ n, s.params.maxInstances = some n ∧ ∀ k < n, (s.slot k).live

/-- No live instance holds this device or this path open (R306). -/
def State.deviceUnused (s : State) (path : DevPath) (dev : DevHandle) : Prop :=
  ∀ y ∈ s.slots, y.live → y.devOpen = true → y.dev ≠ dev ∧ y.cfg.path ≠ path

/-- What a host operation leaves alone: the parameters, the turns, the answers, the draws and the function port. -/
def State.hostFrame (s t : State) : Prop :=
  t.params = s.params ∧ t.inputs = s.inputs ∧ t.ans = s.ans ∧ t.draw = s.draw ∧ t.fnResult = s.fnResult

/-- The header fields in the capture buffer, as R107 writes them: `DST = {h[1], h[0]}` and so on. -/
def Slot.headerFields (x : Slot) : PktFields where
  dst := x.hbuf[1] ++ x.hbuf[0]
  src := x.hbuf[3] ++ x.hbuf[2]
  rev := x.hbuf[4]
  cmd := x.hbuf[6] ++ x.hbuf[5]
  nfr := x.hbuf[7]

/-- Logical byte `i` of the frame in the capture buffer, as R110 writes it (of a byte with bit 7 set: log 33). -/
def Slot.logicalAt (x : Slot) (i : Nat) : Byte :=
  x.fbuf.toList.getD i 0 ||| (if (x.fbuf[4] >>> i) &&& 1 = 1 then 0x80 else 0x00)

/-- Two slots that only differ in values no rule will read before writing them (R286, 10_state.md R40): stale capture
buffers, counters and packet contents, the exit value of a running instance, and the test trace. -/
def Slot.sameFuture (x y : Slot) : Prop :=
  x.life = y.life ∧ x.fsm = y.fsm ∧ x.td = y.td ∧ x.pktLive = y.pktLive ∧ x.cfg = y.cfg ∧ x.dev = y.dev ∧
  x.devOpen = y.devOpen ∧ x.savedCfg = y.savedCfg ∧ x.cfgChanged = y.cfgChanged ∧ x.sentinelDone = y.sentinelDone ∧
  x.call = y.call ∧ x.handle = y.handle ∧ x.okPending = y.okPending ∧ x.joinWait = y.joinWait ∧ x.callJoin = y.callJoin ∧
  x.stream = y.stream ∧
  (x.life ≠ .running → x.exit = y.exit) ∧
  (x.life = .running → x.fsm = .readingHeader →
    x.hcnt = y.hcnt ∧ ∀ i < x.hcnt.val, x.hbuf.toList.getD i 0 = y.hbuf.toList.getD i 0) ∧
  (x.life = .running → x.fsm = .readingFrames →
    x.pkt = y.pkt ∧ x.fidx = y.fidx ∧ x.fpos = y.fpos ∧
    (∀ i < x.fpos.val, x.fbuf.toList.getD i 0 = y.fbuf.toList.getD i 0) ∧
    ∀ i < 4 * x.fidx.val, PayBuf.read x.pay i = PayBuf.read y.pay i) ∧
  (x.life = .running → x.fsm = .delivering →
    x.pkt = y.pkt ∧ ∀ i < 4 * x.pkt.nfr.toNat, PayBuf.read x.pay i = PayBuf.read y.pay i)

/-- Two machines that agree in everything the spec's rules and the environment read, but that slot `k` of the one only has the
same future as slot `k` of the other (R286). What the two have done so far (`State.effects`) is no part of it. -/
def State.sameFutureAt (k : Nat) (s u : State) : Prop :=
  (s.slot k).sameFuture (u.slot k) ∧ (∀ j, j ≠ k → u.slot j = s.slot j) ∧ u.params = s.params ∧ u.registered = s.registered ∧
  u.nextHandle = s.nextHandle ∧ u.inputs = s.inputs ∧ u.ans = s.ans ∧ u.draw = s.draw ∧ u.fnResult = s.fnResult

end Sys2Proof.Machine
end

