-- ==== Sys2Proof/Certificates/Slice0/Obligations.lean ====
section
/-!
DEFINITION. The statements for the provers, from the numbered rules of spec/. `s.setSlot k y` is `s` with slot `k` replaced by
`y`, `s.emit e` is `s` with the effect `e` recorded, `s.bump` is `s` with the next draw of free values; nothing else changes
in them, so an equation with them is also the frame of the instruction.
-/

open Sys2Proof Sys2Proof.Machine

/-! ### Encoding -/

/-- R114, its rows selected by a read: the event map selects exactly the event whose row holds, in every reading state some
event, and none in DELIVERING (R115, R205). -/
def Obligations.EventMapSelectsExactlyItsRow : Prop :=
  (∀ (m : Byte) (q : Sequencer) (k : Nat) (r : RdResult) (i : Instr), eventOf m q k r = .ok i ↔
    (i = .huntMarker k ∧ q.fsm = .hunting ∧ r = .byte m) ∨
    (∃ b, i = .huntSkip k b ∧ q.fsm = .hunting ∧ r = .byte b ∧ b ≠ m) ∨
    (∃ b, i = .hdrByte k b ∧ q.fsm = .readingHeader ∧ r = .byte b ∧ topBit b = false ∧ q.hcnt.val < 8) ∨
    (∃ b, i = .hdrLast k b ∧ q.fsm = .readingHeader ∧ r = .byte b ∧ topBit b = false ∧ q.hcnt.val = 8) ∨
    (∃ b, i = .hdrAbort k b ∧ q.fsm = .readingHeader ∧ r = .byte b ∧ topBit b = true) ∨
    (∃ b, i = .frmByte k b ∧ q.fsm = .readingFrames ∧ r = .byte b ∧ topBit b = false ∧ q.fpos.val < 5) ∨
    (∃ b, i = .frmAbort k b ∧ q.fsm = .readingFrames ∧ r = .byte b ∧ topBit b = true ∧ q.fpos.val < 5) ∨
    (∃ b, i = .frmLast k b ∧ q.fsm = .readingFrames ∧ r = .byte b ∧ q.fpos.val = 5) ∨
    (i = .rdEos k ∧ q.fsm ≠ .delivering ∧ r = .eos) ∨
    (∃ e, i = .rdErr k e ∧ q.fsm ≠ .delivering ∧ r = .err e)) ∧
  (∀ (m : Byte) (q : Sequencer) (k : Nat) (r : RdResult),
    (∃ i, eventOf m q k r = .ok i) ↔ q.fsm ≠ .delivering)

/-- The header formats of R105, R107 and R117 and the decoder of R160 are inverse to each other: fields in the wire's range
come back from `HDR`, whose nine bytes all have top bit 0, and a clean header that decodes is the `HDR` of its fields. -/
def Obligations.HeaderDecodeAndHdrAreInverse : Prop :=
  (∀ p : PktFields, wireFields p = true →
    headerDecode (hdrBytes p) = some p ∧ ∀ b ∈ (hdrBytes p).toList, topBit b = false) ∧
  (∀ (h : Vector Byte 9) (p : PktFields), (∀ b ∈ h.toList, topBit b = false) → headerDecode h = some p →
    wireFields p = true ∧ hdrBytes p = h)

/-- R172: logical byte i of a frame is map bit i over bits 6..0 of wire byte i, a logical byte has exactly one encoding in the
low-byte and map-bit pair, and `FrameDecode` after `FRM` is the identity on every group of four bytes. -/
def Obligations.FrameDecodeAfterFrmIsIdentity : Prop :=
  (∀ l : Vector Byte 4, frameDecode (frmBytes l) = some l ∧ ∀ b ∈ (frmBytes l).toList, topBit b = false) ∧
  (∀ (f : Vector Byte 6) (l : Vector Byte 4), (∀ b ∈ f.toList.take 5, topBit b = false) → frameDecode f = some l →
    ∀ i (hi : i < 4), l[i] = (BitVec.ofBool (f[4].getLsbD i) ++ (f[i].extractLsb' 0 7) : BitVec (1 + 7)) ∧
      f[i] = l[i] &&& 0x7F ∧ f[4].getLsbD i = topBit l[i])

/-- R174: map bits 6..4 change no logical byte, and two clean frames that differ only in them do not both validate with
the same checksum byte. -/
def Obligations.MapBitsSixToFourChangeNoLogicalByte : Prop :=
  ∀ f g : Vector Byte 6, (∀ i (hi : i < 4), f[i] = g[i]) → (∀ i < 4, f[4].getLsbD i = g[4].getLsbD i) →
    (∀ l l', frameDecode f = some l → frameDecode g = some l' → l = l') ∧
    (f[4] ≠ g[4] → topBit f[4] = false → topBit g[4] = false → f[5] = g[5] →
      ¬ (valid f.toList = true ∧ valid g.toList = true))

/-- A few words written out from the spec's encodings (vectors S1, FD4, FD9, RD1 to RD12 of 95_test_vectors.md) are read as
what they stand for. -/
def Obligations.WrittenOutWordsDecode : Prop :=
  eventOf 0x95 ⟨.hunting, 0, 0⟩ 2 (.byte 0x95) = .ok (.huntMarker 2) ∧
  eventOf 0x95 ⟨.hunting, 0, 0⟩ 2 (.byte 0x96) = .ok (.huntSkip 2 0x96) ∧
  eventOf 0x95 ⟨.readingHeader, 0, 0⟩ 2 (.byte 0x34) = .ok (.hdrByte 2 0x34) ∧
  eventOf 0x95 ⟨.readingHeader, 8, 0⟩ 2 (.byte 0x26) = .ok (.hdrLast 2 0x26) ∧
  eventOf 0x95 ⟨.readingHeader, 3, 0⟩ 2 (.byte 0x95) = .ok (.hdrAbort 2 0x95) ∧
  eventOf 0x95 ⟨.readingFrames, 0, 4⟩ 2 (.byte 0x0F) = .ok (.frmByte 2 0x0F) ∧
  eventOf 0x95 ⟨.readingFrames, 0, 2⟩ 2 (.byte 0x95) = .ok (.frmAbort 2 0x95) ∧
  eventOf 0x95 ⟨.readingFrames, 0, 5⟩ 2 (.byte 0xF5) = .ok (.frmLast 2 0xF5) ∧
  headerDecode #v[0x34, 0x12, 0x00, 0x00, 0x01, 0x10, 0x00, 0x02, 0x26] =
    some { dst := 0x1234, src := 0x0000, rev := 0x01, cmd := 0x0010, nfr := 2 } ∧
  frameDecode #v[0x41, 0x00, 0x00, 0x00, 0x00, 0x3E] = some #v[0x41, 0x00, 0x00, 0x00] ∧
  frameDecode #v[0x01, 0x02, 0x03, 0x04, 0x71, 0x04] = some #v[0x81, 0x02, 0x03, 0x04]

/-- R100: a byte is MARKER exactly where it equals `MARKER_VALUE`, HIGH exactly where its top bit is set and it is not the
marker, CLEAN exactly where its top bit is clear; the marker itself has its top bit set (R102). -/
def Obligations.ByteClassIsTheTable : Prop :=
  ∀ (p : Params) (b : Byte), topBit p.marker = true ∧
    (byteClass p.marker b = .marker ↔ b = p.marker) ∧
    (byteClass p.marker b = .high ↔ topBit b = true ∧ b ≠ p.marker) ∧
    (byteClass p.marker b = .clean ↔ topBit b = false)

/-! ### Checksum -/

/-- R148: a span validates exactly where the checksum of the bytes before its last byte is that byte; and R143: never where
that byte has its top bit set. -/
def Obligations.SpanValidatesIffItsChecksumIsItsLastByte : Prop :=
  (∀ (s : List Byte) (c : Byte), valid (s ++ [c]) = true ↔ ck s = c) ∧
  (∀ (s : List Byte) (c : Byte), topBit c = true → valid (s ++ [c]) = false)

/-- R142: the sum is the exact sum modulo 256, its order does not matter, and the checksum lies in 0x00..0x7F. -/
def Obligations.SumIsModulo256AndOrderFree : Prop :=
  (∀ s : List Byte, (sumBytes s).toNat = (s.map BitVec.toNat).sum % 256 ∧ (ck s).toNat ≤ 0x7F) ∧
  (∀ s t : List Byte, s.Perm t → sumBytes s = sumBytes t ∧ ck s = ck t)

/-- R144: the expected checksum is 127 less the sum of the bytes modulo 128. -/
def Obligations.ChecksumIs127LessSumModulo128 : Prop :=
  ∀ s : List Byte, (ck s).toNat = 127 - (s.map BitVec.toNat).sum % 128

/-- R145: in a span of clean bytes that validates, replacing one byte by a different clean byte is always detected. -/
def Obligations.CleanSingleByteErrorIsDetected : Prop :=
  ∀ (s : List Byte) (i : Nat) (hi : i < s.length) (b : Byte), valid s = true → (∀ c ∈ s, topBit c = false) →
    topBit b = false → b ≠ s[i] → valid (s.set i b) = false

/-- R146, its limit of the function alone: flipping bit 7 of one data byte leaves the outcome as it was. -/
def Obligations.BitSevenFlipOfDataByteIsNotSeen : Prop :=
  ∀ (s : List Byte) (i : Nat) (hi : i + 1 < s.length), valid (s.set i (s[i] ^^^ 0x80)) = valid s

/-- R140 and R147 as instructions: Valid answers whether the negated sum of the bytes before the last, masked with 0x7F, is
the last byte, Ck answers that value, and neither writes anything else. -/
def Obligations.ChecksumInstructionsAnswer : Prop :=
  (∀ (s : State) (d : List Byte) (c : Byte), exec (.valid (d ++ [c])) s =
    .next { s with fnResult := some (.valid (decide (~~~(d.foldl (· + ·) 0) &&& 0x7F = c))) }) ∧
  (∀ (s : State) (d : List Byte), exec (.ck d) s =
    .next { s with fnResult := some (.ck (~~~(d.foldl (· + ·) 0) &&& 0x7F)) })

/-- The model's choice (log 20): of no bytes, for which R148 states no result, Valid answers a value nothing constrains (a free
value, the counter of draws moved on) and writes nothing else. -/
def Obligations.ValidOfNoBytesAnswersAFreeValue : Prop :=
  ∀ s : State, ∃ r : Bool, exec (.valid []) s = .next { s with draw := s.draw + 1, fnResult := some (.valid r) }

/-- R160 and R170 as instructions: HeaderDecode answers Reject or the fields of R107, FrameDecode answers Reject or the bytes
of R110, and neither writes anything else. That they run, and FrameDecode by R110's OR, on bytes with bit 7 set too, which R162
and R171 exclude, is the model's choice (log 33). -/
def Obligations.DecoderInstructionsAnswer : Prop :=
  (∀ (s : State) (h : Vector Byte 9), exec (.headerDecode h) s =
    .next { s with fnResult := some (.headerDecode (if ck (h.toList.take 8) = h[8] then
      some { dst := h[1] ++ h[0], src := h[3] ++ h[2], rev := h[4], cmd := h[6] ++ h[5], nfr := h[7] } else none)) }) ∧
  (∀ (s : State) (f : Vector Byte 6), exec (.frameDecode f) s =
    .next { s with fnResult := some (.frameDecode (if ck (f.toList.take 5) = f[5] then
      some (Vector.ofFn (fun i : Fin 4 => f[i.val] ||| (if (f[4] >>> i.val) &&& 1 = 1 then 0x80 else 0x00)))
      else none)) })

/-! ### A step -/

/-- A step runs the decoded instruction. A turn of the host runs its operation; a turn of a RUNNING instance consumes exactly
one read result in a reading state and runs the event the map selects for it, and in DELIVERING reads nothing and runs
DELIVER, or DELIVER_RET once the handler returns (R190, R114, R71); a turn of an instance in TEARDOWN runs the event of its
teardown step (R261). Around exec the model's step has these turns of its own: the host receives the `Ok` of a START that is on
its way to it, once (R326, log 30), and a handler whose call is in progress performs a JOIN, its call waiting in it where the
JOIN waits (R334, log 27). -/
def Obligations.StepRunsTheSelectedEvent : Prop :=
  (∀ (s : State) (i : Instr) (a : Answers) (rest : List Turn), s.inputs = .op i a :: rest → fromOutside i = true →
    step s = exec i { s with inputs := rest, ans := a }) ∧
  (∀ (s : State) (k : Nat) (a : Answers) (rest : List Turn) (r : RdResult) (rs : List RdResult) (i : Instr),
    s.inputs = .inst k a :: rest → (s.slot k).life = .running → (s.slot k).stream = r :: rs →
    eventOf s.params.marker (s.slot k).sequencer k r = .ok i →
    step s = exec i ({ s with inputs := rest, ans := a }.setSlot k { s.slot k with stream := rs })) ∧
  (∀ (s : State) (k : Nat) (a : Answers) (rest : List Turn), s.inputs = .inst k a :: rest →
    (s.slot k).life = .running → (s.slot k).fsm = .delivering →
    ((s.slot k).call = none → step s = exec (.deliver k) { s with inputs := rest, ans := a }) ∧
    ((s.slot k).call = some .packet → a.handlerReturns = true → (s.slot k).callJoin = none →
      step s = exec (.deliverRet k) { s with inputs := rest, ans := a })) ∧
  (∀ (s : State) (k : Nat) (a : Answers) (rest : List Turn), s.inputs = .inst k a :: rest → (s.slot k).life = .teardown →
    ((s.slot k).td = .restore → step s = exec (.tdRestore k) { s with inputs := rest, ans := a }) ∧
    ((s.slot k).td = .close → step s = exec (.tdClose k) { s with inputs := rest, ans := a }) ∧
    ((s.slot k).td = .sentinel → (s.slot k).call = none → (s.slot k).sentinelDone = false →
      step s = exec (.tdSentinel k) { s with inputs := rest, ans := a }) ∧
    ((s.slot k).td = .sentinel → (s.slot k).call = some .sentinel → a.handlerReturns = true → (s.slot k).callJoin = none →
      step s = exec (.tdSentinelRet k) { s with inputs := rest, ans := a }) ∧
    ((s.slot k).td = .release → step s = exec (.tdRelease k) { s with inputs := rest, ans := a })) ∧
  (∀ (s : State) (k h : Nat) (rest : List Turn), s.handlesInv → s.inputs = .startReturns h :: rest → (s.slot k).live →
    (s.slot k).handle = h →
    ((s.slot k).okPending = true → step s = .next
      (({ s with inputs := rest }.setSlot k { s.slot k with okPending := false }).emit (.startResult (.ok h)))) ∧
    ((s.slot k).okPending = false → step s = .next { s with inputs := rest })) ∧
  (∀ (s : State) (k h : Nat) (rest : List Turn), s.inputs = .handlerJoin k h :: rest → (s.slot k).call ≠ none →
    (s.slot k).callJoin = none →
    step s = exec (.join h) (if s.joinWaits h then { s with inputs := rest }.holdCall k h else { s with inputs := rest }))

/-- R308, R333: a wait changes nothing of the block: a read the device does not answer, and a handler call that does not return
(or that waits in a JOIN, R334, log 27), leave everything but the turn taken and its answers as it was. Two cases are the model's
choice (log 8): with no turn the machine holds, and a turn of an instance that is FREE or STOPPED passes. -/
def Obligations.WaitingChangesNothing : Prop :=
  (∀ s : State, s.inputs = [] → step s = .next s) ∧
  (∀ (s : State) (k : Nat) (a : Answers) (rest : List Turn), s.inputs = .inst k a :: rest →
    ((s.slot k).life = .running ∧ (s.slot k).fsm ≠ .delivering ∧ (s.slot k).stream = []) ∨
    ((s.slot k).life = .running ∧ (s.slot k).fsm = .delivering ∧ (s.slot k).call = some .packet ∧
      (a.handlerReturns = false ∨ (s.slot k).callJoin ≠ none)) ∨
    ((s.slot k).life = .teardown ∧ (s.slot k).td = .sentinel ∧ (s.slot k).call = some .sentinel ∧
      (a.handlerReturns = false ∨ (s.slot k).callJoin ≠ none)) ∨
    (s.slot k).life = .free ∨ (s.slot k).life = .stopped →
    step s = .next { s with inputs := rest, ans := a })

/-! ### The reader's events -/

/-- R191: a marker read while hunting starts a header. -/
def Obligations.MarkerStartsHeader : Prop :=
  ∀ (s : State) (k : Nat), (s.slot k).life = .running → (s.slot k).fsm = .hunting →
    exec (.huntMarker k) s = .next (s.setSlot k { s.slot k with hcnt := 0, fsm := .readingHeader })

/-- R195: any other byte read while hunting is discarded and no state changes. -/
def Obligations.HuntSkipChangesNoState : Prop :=
  ∀ (s : State) (k : Nat) (b : Byte), (s.slot k).life = .running → (s.slot k).fsm = .hunting → b ≠ s.params.marker →
    exec (.huntSkip k b) s = .next s

/-- R192: a clean header byte is stored at `S.HCNT`, which is incremented. -/
def Obligations.HeaderByteIsStored : Prop :=
  ∀ (s : State) (k : Nat) (b : Byte), (s.slot k).life = .running → (s.slot k).fsm = .readingHeader → topBit b = false →
    (s.slot k).hcnt.val < 8 →
    ∃ y : Slot, exec (.hdrByte k b) s = .next (s.setSlot k y) ∧
      y = { s.slot k with hbuf := y.hbuf, hcnt := y.hcnt } ∧ y.hcnt.val = (s.slot k).hcnt.val + 1 ∧
      y.hbuf.toList = (s.slot k).hbuf.toList.set (s.slot k).hcnt.val b

/-- R193, R180: a ninth byte that is the checksum of the eight before it accepts the header: the packet record gets the fields of
R107, and with frames to come the reader reads frames, with a frame count of 0 it goes straight to DELIVERING. HDR_LAST stores
the byte and runs AcceptHeader. -/
def Obligations.GoodHeaderIsAccepted : Prop :=
  ∀ (s : State) (k : Nat) (b : Byte), (s.slot k).life = .running → (s.slot k).fsm = .readingHeader → topBit b = false →
    (s.slot k).hcnt.val = 8 → ck ((s.slot k).hbuf.toList.take 8) = b →
    (s.params.allocMayFail = true → s.ans.allocOk = true) →
    ((s.slot k).headerFields.nfr ≠ 0 → (s.slot k).headerFields.nfr.toNat ≤ s.params.maxFrames.val →
      exec (.hdrLast k b) s = .next (s.setSlot k { s.slot k with
        hbuf := (s.slot k).hbuf.set 8 b, pkt := (s.slot k).headerFields, pktLive := true, fidx := 0, fpos := 0,
        fsm := .readingFrames }) ∧
      exec (.acceptHeader k b) s = .next (s.setSlot k { s.slot k with
        pkt := (s.slot k).headerFields, pktLive := true, fidx := 0, fpos := 0, fsm := .readingFrames })) ∧
    ((s.slot k).headerFields.nfr = 0 →
      exec (.hdrLast k b) s = .next (s.setSlot k { s.slot k with
        hbuf := (s.slot k).hbuf.set 8 b, pkt := (s.slot k).headerFields, pktLive := true, fsm := .delivering }) ∧
      exec (.acceptHeader k b) s = .next (s.setSlot k { s.slot k with
        pkt := (s.slot k).headerFields, pktLive := true, fsm := .delivering }))

/-- R180, R291: a header is abandoned with HDR_CHECKSUM where its checksum is wrong, else with HDR_ALLOC where its frame
count exceeds MAX_FRAMES or the allocation draw fails; the packet record keeps its values (R285). -/
def Obligations.BadOrOversizedHeaderIsAbandoned : Prop :=
  ∀ (s : State) (k : Nat) (b : Byte) (c : AbandonCause), (s.slot k).life = .running → (s.slot k).fsm = .readingHeader →
    topBit b = false → (s.slot k).hcnt.val = 8 →
    (ck ((s.slot k).hbuf.toList.take 8) ≠ b ∧ c = .hdrChecksum) ∨
    (ck ((s.slot k).hbuf.toList.take 8) = b ∧ c = .hdrAlloc ∧
      (s.params.maxFrames.val < (s.slot k).headerFields.nfr.toNat ∨
        (s.params.allocMayFail = true ∧ s.ans.allocOk = false))) →
    exec (.hdrLast k b) s = .next (s.setSlot k { s.slot k with
      hbuf := (s.slot k).hbuf.set 8 b, pktLive := false, fsm := .hunting, causes := c :: (s.slot k).causes }) ∧
    exec (.acceptHeader k b) s = .next (s.setSlot k { s.slot k with
      pktLive := false, fsm := .hunting, causes := c :: (s.slot k).causes })

/-- R194, R197: a top-bit byte at any header offset, or at frame offsets 0 to 4, abandons the packet at once: the reader hunts,
the packet is not live, the byte is stored nowhere. -/
def Obligations.TopBitByteAbandonsPacket : Prop :=
  (∀ (s : State) (k : Nat) (b : Byte), (s.slot k).life = .running → (s.slot k).fsm = .readingHeader → topBit b = true →
    exec (.hdrAbort k b) s = .next (s.setSlot k { s.slot k with
      pktLive := false, fsm := .hunting, causes := .hdrTopbit :: (s.slot k).causes })) ∧
  (∀ (s : State) (k : Nat) (b : Byte), (s.slot k).life = .running → (s.slot k).fsm = .readingFrames → topBit b = true →
    (s.slot k).fpos.val < 5 →
    exec (.frmAbort k b) s = .next (s.setSlot k { s.slot k with
      pktLive := false, fsm := .hunting, causes := .frmTopbit :: (s.slot k).causes }))

/-- R285: Abandon, for every cause in the reader state in which R281 has it raised, clears the live bit and hunts; all other
values stay (the cause goes to the trace of R309). -/
def Obligations.AbandonDiscardsAndHunts : Prop :=
  ∀ (s : State) (k : Nat) (c : AbandonCause), (s.slot k).life = .running →
    ((s.slot k).fsm = .readingHeader ∧ (c = .hdrTopbit ∨ c = .hdrChecksum ∨ c = .hdrAlloc)) ∨
    ((s.slot k).fsm = .readingFrames ∧ (c = .frmTopbit ∨ c = .frmChecksum)) →
    exec (.abandon k c) s = .next (s.setSlot k { s.slot k with
      pktLive := false, fsm := .hunting, causes := c :: (s.slot k).causes })

/-- R196: a clean frame byte at offsets 0 to 4 is stored at `S.FPOS`, which is incremented. -/
def Obligations.FrameByteIsStored : Prop :=
  ∀ (s : State) (k : Nat) (b : Byte), (s.slot k).life = .running → (s.slot k).fsm = .readingFrames → topBit b = false →
    (s.slot k).fpos.val < 5 →
    ∃ y : Slot, exec (.frmByte k b) s = .next (s.setSlot k y) ∧
      y = { s.slot k with fbuf := y.fbuf, fpos := y.fpos } ∧ y.fpos.val = (s.slot k).fpos.val + 1 ∧
      y.fbuf.toList = (s.slot k).fbuf.toList.set (s.slot k).fpos.val b

/-- R198, R181: a sixth byte that is the checksum of the five before it accepts the frame: payload bytes 4f to 4f+3 become
the logical bytes and no other payload byte changes; `S.FIDX` counts it; the last frame moves to DELIVERING, any other to the
next frame. FRM_LAST stores the byte and runs AcceptFrame. `S.FIDX < MAX_FRAMES` follows from R53(b), which the slot invariant
states. In a state whose capture buffer holds a byte with bit 7 set, which no run reaches (R171), the OR is the model's choice
(log 33). -/
def Obligations.GoodFrameIsAccepted : Prop :=
  ∀ (s : State) (k : Nat) (b : Byte), (s.slot k).life = .running → (s.slot k).fsm = .readingFrames →
    (s.slot k).fpos.val = 5 → ck ((s.slot k).fbuf.toList.take 5) = b → (s.slot k).fidx.val < s.params.maxFrames.val →
    ∃ (m : PayBuf) (f : Fin 128), f.val = (s.slot k).fidx.val + 1 ∧
      (∀ j, PayBuf.read m j = if 4 * (s.slot k).fidx.val ≤ j ∧ j < 4 * (s.slot k).fidx.val + 4 then
        some ((s.slot k).logicalAt (j - 4 * (s.slot k).fidx.val)) else PayBuf.read (s.slot k).pay j) ∧
      ((s.slot k).fidx.val + 1 = (s.slot k).pkt.nfr.toNat →
        exec (.frmLast k b) s = .next (s.setSlot k { s.slot k with
          fbuf := (s.slot k).fbuf.set 5 b, pay := m, fidx := f, fsm := .delivering }) ∧
        exec (.acceptFrame k b) s = .next (s.setSlot k { s.slot k with pay := m, fidx := f, fsm := .delivering })) ∧
      ((s.slot k).fidx.val + 1 ≠ (s.slot k).pkt.nfr.toNat →
        exec (.frmLast k b) s = .next (s.setSlot k { s.slot k with
          fbuf := (s.slot k).fbuf.set 5 b, pay := m, fidx := f, fpos := 0 }) ∧
        exec (.acceptFrame k b) s = .next (s.setSlot k { s.slot k with pay := m, fidx := f, fpos := 0 }))

/-- R198, R181, R199: a sixth byte that is not the checksum of the five before it, a byte with its top bit set among them,
abandons the whole packet; no payload byte is written. -/
def Obligations.BadFrameAbandonsWholePacket : Prop :=
  ∀ (s : State) (k : Nat) (b : Byte), (s.slot k).life = .running → (s.slot k).fsm = .readingFrames →
    (s.slot k).fpos.val = 5 → (ck ((s.slot k).fbuf.toList.take 5) ≠ b ∨ topBit b = true) →
    exec (.frmLast k b) s = .next (s.setSlot k { s.slot k with
      fbuf := (s.slot k).fbuf.set 5 b, pktLive := false, fsm := .hunting, causes := .frmChecksum :: (s.slot k).causes }) ∧
    exec (.acceptFrame k b) s = .next (s.setSlot k { s.slot k with
      pktLive := false, fsm := .hunting, causes := .frmChecksum :: (s.slot k).causes })

/-- R200, R201, R287: in each of the three reading states end of stream and a read error end the reader: the exit value is
recorded, the device's code unchanged, no packet stays live, and teardown begins at TD_RESTORE. -/
def Obligations.TerminalReadBeginsTeardown : Prop :=
  ∀ (s : State) (k : Nat), (s.slot k).life = .running → (s.slot k).fsm ≠ .delivering →
    exec (.rdEos k) s = .next (s.setSlot k { s.slot k with
      exit := .endOfStream, pktLive := false, life := .teardown, td := .restore }) ∧
    (∀ e, exec (.rdErr k e) s = .next (s.setSlot k { s.slot k with
      exit := .ioError e, pktLive := false, life := .teardown, td := .restore })) ∧
    (∀ v, exec (.fatal k v) s = .next (s.setSlot k { s.slot k with
      exit := v, pktLive := false, life := .teardown, td := .restore }))

/-- R202, R270: DELIVER calls the instance's handler once, with its argument and the packet: the fields and, in order, the
payload bytes 0 to 4*NFR - 1, each the byte written there. Nothing of the block is written; the call is in progress. -/
def Obligations.DeliverCallsHandlerWithThePacket : Prop :=
  ∀ (s : State) (k : Nat), (s.slot k).life = .running → (s.slot k).fsm = .delivering → (s.slot k).call = none →
    ∃ p : Packet,
      exec (.deliver k) s = .next
        ((s.emit (.deliver (s.slot k).handle (s.slot k).cfg.handler (s.slot k).cfg.arg p)).setSlot k
          { s.slot k with call := some .packet }) ∧
      p.fields = (s.slot k).pkt ∧ p.payload.length = 4 * (s.slot k).pkt.nfr.toNat ∧
      ∀ i < 4 * (s.slot k).pkt.nfr.toNat, ∀ v, PayBuf.read (s.slot k).pay i = some v → p.payload[i]? = some v

/-- R203: when the handler has returned (so it waits in no JOIN, R334) the packet is released and the reader hunts; the packet's contents are unspecified
(free values, log 4), every other field stays. -/
def Obligations.HandlerReturnReleasesPacket : Prop :=
  ∀ (s : State) (k : Nat), (s.slot k).life = .running → (s.slot k).fsm = .delivering → (s.slot k).call = some .packet →
    (s.slot k).callJoin = none → ∃ (f : PktFields) (m : PayBuf), exec (.deliverRet k) s = .next (s.bump.setSlot k
      { s.slot k with call := none, pktLive := false, fsm := .hunting, pkt := f, pay := m })

/-- R73, R84, R271: during its packet call the handler reads at index i below 4*NFR the payload byte written there, and
outside a call its read is refused (log 26). -/
def Obligations.HandlerReadsThePayloadDuringItsCall : Prop :=
  (∀ (s : State) (k i : Nat) (v : Byte), (s.slot k).call = some .packet → i < 4 * (s.slot k).pkt.nfr.toNat →
    PayBuf.read (s.slot k).pay i = some v → handlerRead s k i = .ok v) ∧
  (∀ (s : State) (k i : Nat), (s.slot k).call ≠ some .packet → handlerRead s k i = .error .handlerReadOutsideCall)

/-- An event or inner procedure of an instance that does not exist, or is STOPPED, is refused by name (log 14: the rules
select none there). -/
def Obligations.EventWithoutRunningInstanceIsRefused : Prop :=
  ∀ (s : State) (i : Instr) (k : Nat), instanceOf i = some k →
    ((s.slot k).life = .free ∨ (s.slot k).life = .stopped) →
    ∃ n, exec i s = .refused (.eventNotSelected n)

/-! ### Lifecycle -/

/-- R240: REGISTER sets `REGISTERED` and nothing else, and is idempotent. -/
def Obligations.RegisterSetsTheBitOnly : Prop :=
  ∀ s : State, exec .register s = .next { s with registered := true } ∧
    (s.registered = true → exec .register s = .next s)

/-- R242, R322 with raw = 0: a START whose every step succeeds opens the device, latches its parameters, starts the reader
hunting with counters 0, and its `Ok` is on its way to the host (R326, log 30); it neither reads nor changes the device
configuration (R246). The fields of the slot that are not named are those R52 leaves unspecified after START. The model's choices:
the slot is the lowest FREE one (log 6, where R244 says a FREE slot), the handle is a fresh counter value (log 7, where R305 says
distinct among live instances), what the device will answer to reads is given here (log 9), the record of done things (log 11).
A device a live instance already holds is the model's refusal (log 19), stated below. -/
def Obligations.StartWithoutRawModeLaunches : Prop :=
  ∀ (s : State) (k : Nat) (path : DevPath) (h : HandlerRef) (arg : HandlerArg) (dev : DevHandle),
    s.registered = true → s.takesSlot k → s.opensAs path dev → s.deviceUnused path dev → s.ans.launchOk = true →
    ∃ t, exec (.start path false (some h) arg) s = .next t ∧
      t.slot k = { t.slot k with
        cfg := { path := path, raw := false, handler := h, arg := arg }, dev := dev, devOpen := true, cfgChanged := false,
        fsm := .hunting, hcnt := 0, fpos := 0, fidx := 0, pktLive := false, sentinelDone := false, life := .running,
        call := none, handle := s.nextHandle, okPending := true, joinWait := false, callJoin := none,
        stream := s.ans.stream, causes := [] } ∧
      (∀ j, j ≠ k → t.slot j = s.slot j) ∧ t.registered = true ∧ t.nextHandle = s.nextHandle + 1 ∧ s.hostFrame t ∧
      t.effects = s.openEffects path dev ++ s.effects

/-- R242, R246 with raw = 1: the device's configuration is queried and saved, then raw mode is set at `RAW_BAUD`, then the
reader starts as with raw = 0, the configuration marked changed (`S.SAVED_CFG` holds what the query answered). The model's
choices: the slot is the lowest FREE one (log 6), the handle a fresh counter value (log 7), and those of logs 9, 11, 19 and 30 as
with raw = 0. -/
def Obligations.StartInRawModeSavesConfigurationAndLaunches : Prop :=
  ∀ (s : State) (k : Nat) (path : DevPath) (h : HandlerRef) (arg : HandlerArg) (dev : DevHandle) (q : DevConfig),
    s.registered = true → s.takesSlot k → s.opensAs path dev → s.deviceUnused path dev → s.ans.queryAns = some q →
    s.ans.setRawOk = true → s.ans.launchOk = true →
    ∃ t, exec (.start path true (some h) arg) s = .next t ∧
      t.slot k = { t.slot k with
        cfg := { path := path, raw := true, handler := h, arg := arg }, dev := dev, devOpen := true, savedCfg := q,
        cfgChanged := true, fsm := .hunting, hcnt := 0, fpos := 0, fidx := 0, pktLive := false, sentinelDone := false,
        life := .running, call := none, handle := s.nextHandle, okPending := true, joinWait := false, callJoin := none,
        stream := s.ans.stream, causes := [] } ∧
      (∀ j, j ≠ k → t.slot j = s.slot j) ∧ t.registered = true ∧ t.nextHandle = s.nextHandle + 1 ∧ s.hostFrame t ∧
      t.effects = [.devSetRaw dev s.params.rawBaud true, .devQueryCfg dev (some q)] ++
        s.openEffects path dev ++ s.effects

/-- R243, R244, R290: START fails with NotRegistered before REGISTER, with AllocFailed where it gets no slot, with OpenFailed
where the device does not open, in this order of checks (D9), and changes nothing of the block. That a START with a null
handler, which U17 refuses, gets one of these results where it applies is the model's choice (log 18). -/
def Obligations.StartFailsBeforeADeviceIsOpen : Prop :=
  ∀ (s : State) (path : DevPath) (raw : Bool) (h : Option HandlerRef) (arg : HandlerArg),
    (s.registered = false → exec (.start path raw h arg) s =
      .next (s.emit (.startResult (.fail .notRegistered)))) ∧
    (s.registered = true → s.noSlot → exec (.start path raw h arg) s =
      .next (s.emit (.startResult (.fail .allocFailed)))) ∧
    (∀ k, s.registered = true → s.takesSlot k → path ≠ s.params.stdStreamPath → s.ans.openAns = none →
      exec (.start path raw h arg) s =
      .next ((s.emit (.devOpen path none)).emit (.startResult (.fail .openFailed))))

/-- R246, R248: with raw = 1 a failed query gives ConfigQueryFailed and a failed set gives ConfigSetFailed; there is no
restore, since the configuration was not changed; the device is closed if START opened it and the slot is FREE again. The model's
choices: the slot is the lowest FREE one (log 6), and `S.DEV_OPEN` and `S.CFG_CHANGED` of the freed slot are 0 (log 22, DEDUCED:
R248 does not name them). -/
def Obligations.StartFailsInConfigurationAndCleansUp : Prop :=
  ∀ (s : State) (k : Nat) (path : DevPath) (h : HandlerRef) (arg : HandlerArg) (dev : DevHandle),
    s.registered = true → s.takesSlot k → s.opensAs path dev →
    (s.ans.queryAns = none → ∃ t, exec (.start path true (some h) arg) s = .next t ∧
      (t.slot k).life = .free ∧ (t.slot k).devOpen = false ∧ (t.slot k).cfgChanged = false ∧
      (∀ j, j ≠ k → t.slot j = s.slot j) ∧ t.registered = true ∧ t.nextHandle = s.nextHandle ∧ s.hostFrame t ∧
      t.effects = [.startResult (.fail .configQueryFailed)] ++ s.closeEffects path dev ++ [.devQueryCfg dev none] ++
        s.openEffects path dev ++ s.effects) ∧
    (∀ q, s.ans.queryAns = some q → s.ans.setRawOk = false → ∃ t, exec (.start path true (some h) arg) s = .next t ∧
      (t.slot k).life = .free ∧ (t.slot k).devOpen = false ∧ (t.slot k).cfgChanged = false ∧
      (∀ j, j ≠ k → t.slot j = s.slot j) ∧ t.registered = true ∧ t.nextHandle = s.nextHandle ∧ s.hostFrame t ∧
      t.effects = [.startResult (.fail .configSetFailed)] ++ s.closeEffects path dev ++
        [.devSetRaw dev s.params.rawBaud false, .devQueryCfg dev (some q)] ++ s.openEffects path dev ++ s.effects)

/-- R247, R248: a failed launch gives LaunchFailed; with raw = 1 the saved configuration is restored first; the device is
closed if START opened it and the slot is FREE again. The model's choices: the slot is the lowest FREE one (log 6), and
`S.DEV_OPEN` and `S.CFG_CHANGED` of the freed slot are 0 (log 22, DEDUCED: R248 does not name them). -/
def Obligations.StartFailsAtLaunchAndCleansUp : Prop :=
  ∀ (s : State) (k : Nat) (path : DevPath) (h : HandlerRef) (arg : HandlerArg) (dev : DevHandle),
    s.registered = true → s.takesSlot k → s.opensAs path dev → s.ans.launchOk = false →
    (∃ t, exec (.start path false (some h) arg) s = .next t ∧
      (t.slot k).life = .free ∧ (t.slot k).devOpen = false ∧ (t.slot k).cfgChanged = false ∧
      (∀ j, j ≠ k → t.slot j = s.slot j) ∧ t.registered = true ∧ t.nextHandle = s.nextHandle ∧ s.hostFrame t ∧
      t.effects = [.startResult (.fail .launchFailed)] ++ s.closeEffects path dev ++ s.openEffects path dev ++ s.effects) ∧
    (∀ q, s.ans.queryAns = some q → s.ans.setRawOk = true → ∃ t, exec (.start path true (some h) arg) s = .next t ∧
      (t.slot k).life = .free ∧ (t.slot k).devOpen = false ∧ (t.slot k).cfgChanged = false ∧
      (∀ j, j ≠ k → t.slot j = s.slot j) ∧ t.registered = true ∧ t.nextHandle = s.nextHandle ∧ s.hostFrame t ∧
      t.effects = [.startResult (.fail .launchFailed)] ++ s.closeEffects path dev ++
        [.devSetCfg dev q s.ans.restoreOk, .devSetRaw dev s.params.rawBaud true, .devQueryCfg dev (some q)] ++
        s.openEffects path dev ++ s.effects)

/-- R249: a START, failed or not, makes no handler call. -/
def Obligations.StartMakesNoHandlerCall : Prop :=
  ∀ (s t : State) (path : DevPath) (raw : Bool) (h : Option HandlerRef) (arg : HandlerArg),
    exec (.start path raw h arg) s = .next t → ∃ es, t.effects = es ++ s.effects ∧ ∀ e ∈ es, e.callOf = none

/-- The two STARTs the model refuses (U17, log 18; U11, log 19): one whose device is open with a null handler, and one that
would put a second instance on a device in use, with raw = 0 and, after its configuration was queried and set, with raw = 1. -/
def Obligations.StartRefusesNullHandlerAndSharedDevice : Prop :=
  ∀ (s : State) (k : Nat) (path : DevPath) (arg : HandlerArg) (dev : DevHandle),
    s.registered = true → s.takesSlot k → s.opensAs path dev →
    (∀ raw, exec (.start path raw none arg) s = .refused .nullHandler) ∧
    (∀ h, s.ans.launchOk = true → ¬ s.deviceUnused path dev →
      exec (.start path false (some h) arg) s = .refused .deviceShared) ∧
    (∀ h q, s.ans.queryAns = some q → s.ans.setRawOk = true → s.ans.launchOk = true → ¬ s.deviceUnused path dev →
      exec (.start path true (some h) arg) s = .refused .deviceShared)

/-- R252: JOIN of a STOPPED instance answers its exit value and frees the slot. -/
def Obligations.JoinOfStoppedInstanceReturnsItsExitValue : Prop :=
  ∀ (s : State) (k h : Nat), s.handlesInv → (s.slot k).life = .stopped → (s.slot k).handle = h →
    (s.slot k).okPending = false → (s.slot k).joinWait = false →
    exec (.join h) s = .next ((s.emit (.joinResult h (s.slot k).exit)).setSlot k { s.slot k with life := .free })

/-- R253: JOIN of an instance that runs or is in teardown waits and changes nothing else; once the instance is STOPPED the
waiting JOIN goes on, as a JOIN that finds nobody waiting, and so does the handler call that waits in it, if one does (log 27). -/
def Obligations.JoinWaitsUntilStopped : Prop :=
  (∀ (s : State) (k h : Nat), s.handlesInv → ((s.slot k).life = .running ∨ (s.slot k).life = .teardown) →
    (s.slot k).handle = h → (s.slot k).okPending = false → (s.slot k).joinWait = false →
    exec (.join h) s = .next (s.setSlot k { s.slot k with joinWait := true })) ∧
  (∀ (s : State) (k h : Nat) (rest : List Turn), s.handlesInv → s.inputs = .wake h :: rest → (s.slot k).live →
    (s.slot k).handle = h →
    ((s.slot k).life = .stopped → (s.slot k).joinWait = true →
      step s = exec (.join h) (({ s with inputs := rest }.setSlot k { s.slot k with joinWait := false }).resumeCalls h)) ∧
    ((s.slot k).life ≠ .stopped → step s = .next { s with inputs := rest }))

/-- R255: a JOIN with a handle of no live instance, or of one whose START has not returned it yet (R326), and a second JOIN while
one waits, are refused. -/
def Obligations.JoinIsRefusedWithoutItsOneInstance : Prop :=
  (∀ (s : State) (h : Nat), (∀ k, (s.slot k).live → (s.slot k).handle ≠ h) → exec (.join h) s = .refused .joinNotAdmitted) ∧
  (∀ (s : State) (k h : Nat), s.handlesInv → (s.slot k).live → (s.slot k).handle = h →
    ((s.slot k).okPending = true ∨ (s.slot k).joinWait = true) → exec (.join h) s = .refused .joinNotAdmitted)

/-- R334: a handler that performs JOIN of its own instance makes the JOIN wait, and the call waits in it; from then on, in every
run without hardware reset, the call never returns, the instance never stops, and only the bits of START's result on its way to
the host and of the waiting JOIN can still change in its slot. A return of a call that waits in a JOIN is refused, since no such
call has returned (logs 14 and 27, which also says how the wait is held). -/
def Obligations.HandlerThatJoinsItsOwnInstanceIsStuck : Prop :=
  (∀ (s : State) (k : Nat) (rest : List Turn), s.handlesInv → (s.slot k).callInv →
    s.inputs = .handlerJoin k (s.slot k).handle :: rest → (s.slot k).call ≠ none → (s.slot k).callJoin = none →
    (s.slot k).okPending = false → (s.slot k).joinWait = false →
    step s = .next ({ s with inputs := rest }.setSlot k
      { s.slot k with callJoin := some (s.slot k).handle, joinWait := true })) ∧
  (∀ (n : Nat) (s t : State) (k : Nat), s.handlesInv → (s.slot k).callInv → (s.slot k).call ≠ none →
    (s.slot k).callJoin = some (s.slot k).handle → Turn.hardwareReset ∉ s.inputs → Sys2Proof.core.run n s = .next t →
    t.slot k = { s.slot k with okPending := (t.slot k).okPending, joinWait := (t.slot k).joinWait }) ∧
  (∀ (s : State) (k : Nat), (s.slot k).callJoin ≠ none →
    exec (.deliverRet k) s = .refused (.eventNotSelected "DELIVER_RET") ∧
    exec (.tdSentinelRet k) s = .refused (.eventNotSelected "TD_SENTINEL_RET"))

/-- R262, R264 and R263: TD_RESTORE writes the saved configuration back exactly where it was changed, TD_CLOSE closes the
device, and neither looks at whether its device operation succeeded. -/
def Obligations.TeardownRestoresThenCloses : Prop :=
  (∀ (s : State) (k : Nat), (s.slot k).life = .teardown → (s.slot k).td = .restore →
    exec (.tdRestore k) s = .next
      ((if (s.slot k).cfgChanged then s.emit (.devSetCfg (s.slot k).dev (s.slot k).savedCfg s.ans.restoreOk) else s).setSlot k
        { s.slot k with cfgChanged := false, td := .close })) ∧
  (∀ (s : State) (k : Nat), (s.slot k).life = .teardown → (s.slot k).td = .close →
    exec (.tdClose k) s = .next ((s.emit (.devClose (s.slot k).dev s.ans.closeOk)).setSlot k
      { s.slot k with devOpen := false, td := .sentinel }))

/-- R266, R267, R273: TD_SENTINEL calls the same handler with the same argument and the sentinel; when it has returned
(so it waits in no JOIN, R334) `S.SENTINEL_DONE` is 1 and teardown goes to TD_RELEASE. -/
def Obligations.TeardownDeliversTheSentinel : Prop :=
  (∀ (s : State) (k : Nat), (s.slot k).life = .teardown → (s.slot k).td = .sentinel → (s.slot k).sentinelDone = false →
    (s.slot k).call = none →
    exec (.tdSentinel k) s = .next
      ((s.emit (.sentinel (s.slot k).handle (s.slot k).cfg.handler (s.slot k).cfg.arg)).setSlot k
        { s.slot k with call := some .sentinel })) ∧
  (∀ (s : State) (k : Nat), (s.slot k).life = .teardown → (s.slot k).td = .sentinel → (s.slot k).call = some .sentinel →
    (s.slot k).callJoin = none → exec (.tdSentinelRet k) s = .next (s.setSlot k { s.slot k with call := none, sentinelDone := true, td := .release }))

/-- R268: TD_RELEASE makes the instance STOPPED and keeps `S.EXIT`; `CFG.*`, `S.DEV`, `S.SAVED_CFG`, the capture buffers and
`S.PKT` become unspecified (free values, log 4), every other field stays: for `S.FSM`, `S.TD`, `S.HCNT`, `S.FPOS` and `S.FIDX`,
which D29 and U24 leave unspecified, that is the model's choice (log 32). -/
def Obligations.ReleaseStopsTheInstanceAndKeepsExit : Prop :=
  ∀ (s : State) (k : Nat), (s.slot k).life = .teardown → (s.slot k).td = .release →
    ∃ y : Slot, exec (.tdRelease k) s = .next (s.bump.setSlot k y) ∧
      y = { s.slot k with
        life := .stopped, cfg := y.cfg, dev := y.dev, savedCfg := y.savedCfg, hbuf := y.hbuf, fbuf := y.fbuf,
        pkt := y.pkt, pay := y.pay }

/-- R261: from the start of teardown, five turns of the instance in which the handler returns restore the configuration if it
was changed, close the device, make the one sentinel call, in this order, and stop the instance with its exit value (that
`S.DEV_OPEN` and `S.SENTINEL_DONE` are kept by the release is the model's reading of R42 and R44, log 32). -/
def Obligations.TeardownRunsInOrderToStopped : Prop :=
  ∀ (s : State) (k : Nat) (a : Answers) (rest : List Turn), (s.slot k).life = .teardown → (s.slot k).td = .restore →
    (s.slot k).call = none → (s.slot k).callJoin = none → (s.slot k).sentinelDone = false → a.handlerReturns = true →
    s.inputs = List.replicate 5 (.inst k a) ++ rest →
    ∃ t : State, Sys2Proof.core.run 5 s = .next t ∧ (t.slot k).life = .stopped ∧ (t.slot k).exit = (s.slot k).exit ∧
      (t.slot k).handle = (s.slot k).handle ∧ (t.slot k).devOpen = false ∧ (t.slot k).sentinelDone = true ∧
      t.inputs = rest ∧ (∀ j, j ≠ k → t.slot j = s.slot j) ∧
      t.effects = [.sentinel (s.slot k).handle (s.slot k).cfg.handler (s.slot k).cfg.arg,
          .devClose (s.slot k).dev a.closeOk] ++
        (if (s.slot k).cfgChanged then [.devSetCfg (s.slot k).dev (s.slot k).savedCfg a.restoreOk] else []) ++ s.effects

/-! ### Reset -/

/-- R52, its hardware-reset column: after reset `REGISTERED` is 0 and every slot is FREE with no packet live, no device held, no
configuration changed and no sentinel made. -/
def Obligations.ResetLeavesEverySlotFree : Prop :=
  State.reset.registered = false ∧ ∀ k, (State.reset.slot k).life = .free ∧ (State.reset.slot k).pktLive = false ∧
    (State.reset.slot k).devOpen = false ∧ (State.reset.slot k).cfgChanged = false ∧
    (State.reset.slot k).sentinelDone = false

/-- R320: hardware reset while instances run discards them without teardown: every slot is FREE with no device held and no packet
live, `REGISTERED` is 0, nothing is restored, closed or called, and no JOIN of any handle is admitted in the state it leaves; nor
is a JOIN of a discarded instance's handle admitted after any run from there, whatever STARTs it holds. -/
def Obligations.HardwareResetDiscardsInstances : Prop :=
  ∀ (s : State) (rest : List Turn), s.inputs = .hardwareReset :: rest →
    ∃ t, step s = .next t ∧ t.registered = false ∧
      (∀ k, (t.slot k).life = .free ∧ (t.slot k).pktLive = false ∧ (t.slot k).devOpen = false ∧ (t.slot k).cfgChanged = false ∧
        (t.slot k).sentinelDone = false) ∧ t.effects = s.effects ∧
      t.inputs = rest ∧ t.params = s.params ∧ (∀ h, exec (.join h) t = .refused .joinNotAdmitted) ∧
      ∀ (k n : Nat) (u : State), s.handlesInv → (s.slot k).live → Sys2Proof.core.run n t = .next u →
        exec (.join (s.slot k).handle) u = .refused .joinNotAdmitted

/-- The invariants of the machine hold after reset. -/
def Obligations.ResetMeetsTheInvariants : Prop := State.reset.inv

/-! ### The whole machine -/

/-- R53, R47, R40, R73: every step keeps the invariant of every slot: what each reader state implies, the wire's ranges of the
header fields, the canonical payload buffer, the handler calls in progress and what waits, and the device and sentinel bits
(that `S.DEV_OPEN` and `S.CFG_CHANGED` are 0 in a FREE slot rests, for one a failed START freed, on log 22, the model's reading;
that TD_RELEASE leaves the status bits of a STOPPED slot as they are, which D29 does not except, on log 32). -/
def Obligations.StepKeepsTheSlotInvariant : Prop :=
  ∀ s t : State, s.slotsInv → step s = .next t → t.slotsInv

/-- R305, R244: every step keeps the handles of live instances distinct and used up, and the live slots inside
MAX_INSTANCES. -/
def Obligations.StepKeepsHandlesDistinct : Prop :=
  ∀ s t : State, s.handlesInv → step s = .next t → t.handlesInv

/-- R269: every step keeps the exactly-once account of the sentinel: one sentinel call for each instance that has begun it, none
before, and no handler call of an instance after its sentinel. -/
def Obligations.StepKeepsSentinelExactlyOnce : Prop :=
  ∀ s t : State, s.inv → step s = .next t → t.sentinelInv

/-- R283, with R320 for hardware reset: a byte never faults or stops the block. From states that meet the slot invariant no step
faults; a byte read in any reading state leaves the instance RUNNING with the byte consumed; and an instance leaves RUNNING only
by an end of stream or a read error that its device answers, or by hardware reset. -/
def Obligations.NoByteStopsTheBlock : Prop :=
  (∀ (s : State) (e : Fault), s.slotsInv → step s ≠ .fault e) ∧
  (∀ (s : State) (k : Nat) (a : Answers) (rest : List Turn) (b : Byte) (bs : List RdResult), s.slotsInv →
    s.inputs = .inst k a :: rest → (s.slot k).life = .running → (s.slot k).fsm ≠ .delivering →
    (s.slot k).stream = .byte b :: bs →
    ∃ t, step s = .next t ∧ (t.slot k).life = .running ∧ (t.slot k).stream = bs ∧ t.inputs = rest) ∧
  (∀ (s t : State) (k : Nat), step s = .next t → (s.slot k).life = .running → (t.slot k).life ≠ .running →
    (∃ rest, s.inputs = .hardwareReset :: rest) ∨
    (∃ a rest rs, s.inputs = .inst k a :: rest ∧
      ((s.slot k).stream = .eos :: rs ∨ ∃ e, (s.slot k).stream = .err e :: rs)))

/-- R32: a slot's lifecycle state changes only from FREE to RUNNING, RUNNING to TEARDOWN, TEARDOWN to STOPPED and STOPPED to
FREE, or by hardware reset to FREE. -/
def Obligations.LifeChangesOnlyInItsOrder : Prop :=
  ∀ (s t : State) (k : Nat), step s = .next t → (t.slot k).life = (s.slot k).life ∨
    ((s.slot k).life = .free ∧ (t.slot k).life = .running) ∨
    ((s.slot k).life = .running ∧ (t.slot k).life = .teardown) ∨
    ((s.slot k).life = .teardown ∧ (t.slot k).life = .stopped) ∨
    ((s.slot k).life = .stopped ∧ (t.slot k).life = .free) ∨
    ((t.slot k).life = .free ∧ ∃ rest, s.inputs = .hardwareReset :: rest)

/-- R41, R245, R87, R48, R44: no step writes the parameters; no step but hardware reset clears `REGISTERED`; while an instance is
RUNNING or in TEARDOWN, before and after the step, the step changes none of its configuration registers, its device and its
handle (START writes them, TD_RELEASE leaves them unspecified, hardware reset drops them); and while the instance exists,
before and after the step, the step does not clear `S.SENTINEL_DONE` (for TD_RELEASE R44 over D29: log 32). -/
def Obligations.LatchedRegistersStay : Prop :=
  ∀ s t : State, step s = .next t →
    t.params = s.params ∧
    (s.registered = true → t.registered = false → ∃ rest, s.inputs = .hardwareReset :: rest) ∧
    (∀ k, ((s.slot k).life = .running ∨ (s.slot k).life = .teardown) →
      ((t.slot k).life = .running ∨ (t.slot k).life = .teardown) →
      (t.slot k).cfg = (s.slot k).cfg ∧ (t.slot k).dev = (s.slot k).dev ∧ (t.slot k).handle = (s.slot k).handle) ∧
    (∀ k, (s.slot k).live → (t.slot k).live → (s.slot k).sentinelDone = true → (t.slot k).sentinelDone = true)

/-- R305: an instance's step reads and writes its own slot only. Two machines with the same parameters, the same slot k and the
same draws make, in a turn of that instance, the same slot, the same effects and the same draws, whatever else they hold; every
other slot, the parameters, `REGISTERED` and the handles are untouched. -/
def Obligations.InstanceStepIsIndependent : Prop :=
  ∀ (s u t : State) (k : Nat) (a : Answers) (rs ru : List Turn), s.inputs = .inst k a :: rs → u.inputs = .inst k a :: ru →
    s.params = u.params → s.draw = u.draw → s.slot k = u.slot k → step s = .next t →
    (∀ j, j ≠ k → t.slot j = s.slot j) ∧ t.registered = s.registered ∧ t.nextHandle = s.nextHandle ∧
    ∃ t' es, step u = .next t' ∧ t'.params = t.params ∧ t'.draw = t.draw ∧ t'.slot k = t.slot k ∧ (∀ j, j ≠ k → t'.slot j = u.slot j) ∧
      t.effects = es ++ s.effects ∧ t'.effects = es ++ u.effects

/-- R286: Abandon is complete. An abandoned instance has the same future whatever its capture buffers, counters and packet record
hold. Two machines that agree but for such values of one slot stay so in every step, whatever turn it takes, and so in every
run, and do the same outside themselves; and what the handler reads during a call is the same in both. -/
def Obligations.AbandonedValuesAreNeverSeen : Prop :=
  (∀ (x : Slot) (c c' : AbandonCause) (hc : Fin 9) (hb : Vector Byte 9) (fp : Fin 6) (fb : Vector Byte 6) (fi : Fin 128)
    (p : PktFields) (m : PayBuf) (cs : List AbandonCause), x.life = .running →
    (x.abandon c).sameFuture { x.abandon c' with
      hcnt := hc, hbuf := hb, fpos := fp, fbuf := fb, fidx := fi, pkt := p, pay := m, causes := cs }) ∧
  (∀ (s u t : State) (k : Nat), s.sameFutureAt k u → step s = .next t →
    ∃ t' es, step u = .next t' ∧ t.sameFutureAt k t' ∧ t.effects = es ++ s.effects ∧ t'.effects = es ++ u.effects) ∧
  (∀ (s u t : State) (k n : Nat), s.sameFutureAt k u → Sys2Proof.core.run n s = .next t →
    ∃ t' es, Sys2Proof.core.run n u = .next t' ∧ t.sameFutureAt k t' ∧ t.effects = es ++ s.effects ∧
      t'.effects = es ++ u.effects) ∧
  (∀ (s u : State) (k j i : Nat), s.sameFutureAt k u → (s.slot k).callInv → handlerRead u j i = handlerRead s j i)

/-- R195, R208: from hunting, bytes among which no marker is are consumed without any effect, one a turn, and the reader
still hunts with nothing else changed. -/
def Obligations.BytesWithoutMarkerReachNoHandler : Prop :=
  ∀ (s : State) (k : Nat) (a : Answers) (bs : List Byte) (more : List RdResult) (rest : List Turn),
    (s.slot k).life = .running → (s.slot k).fsm = .hunting → (∀ b ∈ bs, b ≠ s.params.marker) →
    (s.slot k).stream = bs.map .byte ++ more → s.inputs = List.replicate bs.length (.inst k a) ++ rest →
    ∃ t : State, Sys2Proof.core.run bs.length s = .next t ∧ t.slot k = { s.slot k with stream := more } ∧
      (∀ j, j ≠ k → t.slot j = s.slot j) ∧ t.effects = s.effects ∧ t.inputs = rest

/-- R206, R119, R81: a packet whose marker is read while hunting, and whose bytes then arrive intact, is delivered: one handler
call with exactly its fields and payload, for every packet the notation can write and MAX_FRAMES holds, one turn a byte and one
for the call, whatever the reader read before. -/
def Obligations.IntactPacketIsDelivered : Prop :=
  ∀ (s : State) (k : Nat) (a : Answers) (dst src : Half) (rev : Byte) (cmd : Half) (pay bs : List Byte)
    (more : List RdResult) (rest : List Turn),
    (s.slot k).life = .running → (s.slot k).fsm = .hunting → (s.slot k).call = none →
    pktBytes s.params.marker dst src rev cmd pay = .ok bs → pay.length / 4 ≤ s.params.maxFrames.val →
    (s.params.allocMayFail = true → a.allocOk = true) →
    (s.slot k).stream = bs.map .byte ++ more → s.inputs = List.replicate (bs.length + 1) (.inst k a) ++ rest →
    ∃ t : State, Sys2Proof.core.run (bs.length + 1) s = .next t ∧
      t.effects = .deliver (s.slot k).handle (s.slot k).cfg.handler (s.slot k).cfg.arg
        { fields := { dst := dst, src := src, rev := rev, cmd := cmd, nfr := BitVec.ofNat 8 (pay.length / 4) },
          payload := pay } :: s.effects ∧
      (t.slot k).fsm = .delivering ∧ (t.slot k).call = some .packet ∧ (t.slot k).stream = more ∧
      (∀ j, j ≠ k → t.slot j = s.slot j) ∧ t.inputs = rest
end

