-- ==== Sys2Proof/Laws/State.lean ====
section
/-!
SUPPORT. One lemma for each field under each named update of the state and of a slot, true by unfolding, so that no later proof
unfolds an update.
-/

namespace Sys2Proof.Machine

/-! ### `State.setSlot` -/

@[simp] theorem State.setSlot_params (s : State) (k : Nat) (x : Slot) : (s.setSlot k x).params = s.params := rfl
@[simp] theorem State.setSlot_registered (s : State) (k : Nat) (x : Slot) : (s.setSlot k x).registered = s.registered := rfl
@[simp] theorem State.setSlot_slots (s : State) (k : Nat) (x : Slot) : (s.setSlot k x).slots = setSlotAt s.slots k x := rfl
@[simp] theorem State.setSlot_nextHandle (s : State) (k : Nat) (x : Slot) : (s.setSlot k x).nextHandle = s.nextHandle := rfl
@[simp] theorem State.setSlot_inputs (s : State) (k : Nat) (x : Slot) : (s.setSlot k x).inputs = s.inputs := rfl
@[simp] theorem State.setSlot_ans (s : State) (k : Nat) (x : Slot) : (s.setSlot k x).ans = s.ans := rfl
@[simp] theorem State.setSlot_draw (s : State) (k : Nat) (x : Slot) : (s.setSlot k x).draw = s.draw := rfl
@[simp] theorem State.setSlot_effects (s : State) (k : Nat) (x : Slot) : (s.setSlot k x).effects = s.effects := rfl
@[simp] theorem State.setSlot_fnResult (s : State) (k : Nat) (x : Slot) : (s.setSlot k x).fnResult = s.fnResult := rfl

/-! ### `State.emit` -/

@[simp] theorem State.emit_params (s : State) (e : Effect) : (s.emit e).params = s.params := rfl
@[simp] theorem State.emit_registered (s : State) (e : Effect) : (s.emit e).registered = s.registered := rfl
@[simp] theorem State.emit_slots (s : State) (e : Effect) : (s.emit e).slots = s.slots := rfl
@[simp] theorem State.emit_nextHandle (s : State) (e : Effect) : (s.emit e).nextHandle = s.nextHandle := rfl
@[simp] theorem State.emit_inputs (s : State) (e : Effect) : (s.emit e).inputs = s.inputs := rfl
@[simp] theorem State.emit_ans (s : State) (e : Effect) : (s.emit e).ans = s.ans := rfl
@[simp] theorem State.emit_draw (s : State) (e : Effect) : (s.emit e).draw = s.draw := rfl
@[simp] theorem State.emit_effects (s : State) (e : Effect) : (s.emit e).effects = e :: s.effects := rfl
@[simp] theorem State.emit_fnResult (s : State) (e : Effect) : (s.emit e).fnResult = s.fnResult := rfl
@[simp] theorem State.emit_slot (s : State) (e : Effect) (j : Nat) : (s.emit e).slot j = s.slot j := rfl

/-! ### `State.bump` -/

@[simp] theorem State.bump_params (s : State) : (s.bump).params = s.params := rfl
@[simp] theorem State.bump_registered (s : State) : (s.bump).registered = s.registered := rfl
@[simp] theorem State.bump_slots (s : State) : (s.bump).slots = s.slots := rfl
@[simp] theorem State.bump_nextHandle (s : State) : (s.bump).nextHandle = s.nextHandle := rfl
@[simp] theorem State.bump_inputs (s : State) : (s.bump).inputs = s.inputs := rfl
@[simp] theorem State.bump_ans (s : State) : (s.bump).ans = s.ans := rfl
@[simp] theorem State.bump_draw (s : State) : (s.bump).draw = s.draw + 1 := rfl
@[simp] theorem State.bump_effects (s : State) : (s.bump).effects = s.effects := rfl
@[simp] theorem State.bump_fnResult (s : State) : (s.bump).fnResult = s.fnResult := rfl
@[simp] theorem State.bump_slot (s : State) (j : Nat) : (s.bump).slot j = s.slot j := rfl

/-! ### `State.answer` -/

@[simp] theorem State.answer_params (s : State) (r : FnResult) : (s.answer r).params = s.params := rfl
@[simp] theorem State.answer_registered (s : State) (r : FnResult) : (s.answer r).registered = s.registered := rfl
@[simp] theorem State.answer_slots (s : State) (r : FnResult) : (s.answer r).slots = s.slots := rfl
@[simp] theorem State.answer_nextHandle (s : State) (r : FnResult) : (s.answer r).nextHandle = s.nextHandle := rfl
@[simp] theorem State.answer_inputs (s : State) (r : FnResult) : (s.answer r).inputs = s.inputs := rfl
@[simp] theorem State.answer_ans (s : State) (r : FnResult) : (s.answer r).ans = s.ans := rfl
@[simp] theorem State.answer_draw (s : State) (r : FnResult) : (s.answer r).draw = s.draw := rfl
@[simp] theorem State.answer_effects (s : State) (r : FnResult) : (s.answer r).effects = s.effects := rfl
@[simp] theorem State.answer_fnResult (s : State) (r : FnResult) : (s.answer r).fnResult = some r := rfl
@[simp] theorem State.answer_slot (s : State) (r : FnResult) (j : Nat) : (s.answer r).slot j = s.slot j := rfl

/-! ### `State.hardwareReset` -/

@[simp] theorem State.hardwareReset_params (s : State) : s.hardwareReset.params = s.params := rfl
@[simp] theorem State.hardwareReset_registered (s : State) : s.hardwareReset.registered = false := rfl
@[simp] theorem State.hardwareReset_slots (s : State) : s.hardwareReset.slots = [] := rfl
@[simp] theorem State.hardwareReset_nextHandle (s : State) : s.hardwareReset.nextHandle = s.nextHandle := rfl
@[simp] theorem State.hardwareReset_inputs (s : State) : s.hardwareReset.inputs = s.inputs := rfl
@[simp] theorem State.hardwareReset_ans (s : State) : s.hardwareReset.ans = s.ans := rfl
@[simp] theorem State.hardwareReset_draw (s : State) : s.hardwareReset.draw = s.draw := rfl
@[simp] theorem State.hardwareReset_effects (s : State) : s.hardwareReset.effects = s.effects := rfl
@[simp] theorem State.hardwareReset_fnResult (s : State) : s.hardwareReset.fnResult = none := rfl

/-! ### `State.resumeCalls` -/

@[simp] theorem State.resumeCalls_params (s : State) (h : Nat) : (s.resumeCalls h).params = s.params := rfl
@[simp] theorem State.resumeCalls_registered (s : State) (h : Nat) : (s.resumeCalls h).registered = s.registered := rfl
@[simp] theorem State.resumeCalls_nextHandle (s : State) (h : Nat) : (s.resumeCalls h).nextHandle = s.nextHandle := rfl
@[simp] theorem State.resumeCalls_inputs (s : State) (h : Nat) : (s.resumeCalls h).inputs = s.inputs := rfl
@[simp] theorem State.resumeCalls_ans (s : State) (h : Nat) : (s.resumeCalls h).ans = s.ans := rfl
@[simp] theorem State.resumeCalls_draw (s : State) (h : Nat) : (s.resumeCalls h).draw = s.draw := rfl
@[simp] theorem State.resumeCalls_effects (s : State) (h : Nat) : (s.resumeCalls h).effects = s.effects := rfl
@[simp] theorem State.resumeCalls_fnResult (s : State) (h : Nat) : (s.resumeCalls h).fnResult = s.fnResult := rfl

/-! ### `Slot.resumeCall` -/

@[simp] theorem Slot.resumeCall_life (h : Nat) (x : Slot) : (x.resumeCall h).life = x.life := by
  unfold Slot.resumeCall; split <;> rfl
@[simp] theorem Slot.resumeCall_fsm (h : Nat) (x : Slot) : (x.resumeCall h).fsm = x.fsm := by
  unfold Slot.resumeCall; split <;> rfl
@[simp] theorem Slot.resumeCall_td (h : Nat) (x : Slot) : (x.resumeCall h).td = x.td := by
  unfold Slot.resumeCall; split <;> rfl
@[simp] theorem Slot.resumeCall_hcnt (h : Nat) (x : Slot) : (x.resumeCall h).hcnt = x.hcnt := by
  unfold Slot.resumeCall; split <;> rfl
@[simp] theorem Slot.resumeCall_hbuf (h : Nat) (x : Slot) : (x.resumeCall h).hbuf = x.hbuf := by
  unfold Slot.resumeCall; split <;> rfl
@[simp] theorem Slot.resumeCall_fpos (h : Nat) (x : Slot) : (x.resumeCall h).fpos = x.fpos := by
  unfold Slot.resumeCall; split <;> rfl
@[simp] theorem Slot.resumeCall_fbuf (h : Nat) (x : Slot) : (x.resumeCall h).fbuf = x.fbuf := by
  unfold Slot.resumeCall; split <;> rfl
@[simp] theorem Slot.resumeCall_fidx (h : Nat) (x : Slot) : (x.resumeCall h).fidx = x.fidx := by
  unfold Slot.resumeCall; split <;> rfl
@[simp] theorem Slot.resumeCall_pkt (h : Nat) (x : Slot) : (x.resumeCall h).pkt = x.pkt := by
  unfold Slot.resumeCall; split <;> rfl
@[simp] theorem Slot.resumeCall_pay (h : Nat) (x : Slot) : (x.resumeCall h).pay = x.pay := by
  unfold Slot.resumeCall; split <;> rfl
@[simp] theorem Slot.resumeCall_pktLive (h : Nat) (x : Slot) : (x.resumeCall h).pktLive = x.pktLive := by
  unfold Slot.resumeCall; split <;> rfl
@[simp] theorem Slot.resumeCall_cfg (h : Nat) (x : Slot) : (x.resumeCall h).cfg = x.cfg := by
  unfold Slot.resumeCall; split <;> rfl
@[simp] theorem Slot.resumeCall_dev (h : Nat) (x : Slot) : (x.resumeCall h).dev = x.dev := by
  unfold Slot.resumeCall; split <;> rfl
@[simp] theorem Slot.resumeCall_devOpen (h : Nat) (x : Slot) : (x.resumeCall h).devOpen = x.devOpen := by
  unfold Slot.resumeCall; split <;> rfl
@[simp] theorem Slot.resumeCall_savedCfg (h : Nat) (x : Slot) : (x.resumeCall h).savedCfg = x.savedCfg := by
  unfold Slot.resumeCall; split <;> rfl
@[simp] theorem Slot.resumeCall_cfgChanged (h : Nat) (x : Slot) : (x.resumeCall h).cfgChanged = x.cfgChanged := by
  unfold Slot.resumeCall; split <;> rfl
@[simp] theorem Slot.resumeCall_exit (h : Nat) (x : Slot) : (x.resumeCall h).exit = x.exit := by
  unfold Slot.resumeCall; split <;> rfl
@[simp] theorem Slot.resumeCall_sentinelDone (h : Nat) (x : Slot) : (x.resumeCall h).sentinelDone = x.sentinelDone := by
  unfold Slot.resumeCall; split <;> rfl
@[simp] theorem Slot.resumeCall_call (h : Nat) (x : Slot) : (x.resumeCall h).call = x.call := by
  unfold Slot.resumeCall; split <;> rfl
@[simp] theorem Slot.resumeCall_handle (h : Nat) (x : Slot) : (x.resumeCall h).handle = x.handle := by
  unfold Slot.resumeCall; split <;> rfl
@[simp] theorem Slot.resumeCall_okPending (h : Nat) (x : Slot) : (x.resumeCall h).okPending = x.okPending := by
  unfold Slot.resumeCall; split <;> rfl
@[simp] theorem Slot.resumeCall_joinWait (h : Nat) (x : Slot) : (x.resumeCall h).joinWait = x.joinWait := by
  unfold Slot.resumeCall; split <;> rfl
@[simp] theorem Slot.resumeCall_stream (h : Nat) (x : Slot) : (x.resumeCall h).stream = x.stream := by
  unfold Slot.resumeCall; split <;> rfl
@[simp] theorem Slot.resumeCall_causes (h : Nat) (x : Slot) : (x.resumeCall h).causes = x.causes := by
  unfold Slot.resumeCall; split <;> rfl
@[simp] theorem Slot.resumeCall_callJoin (h : Nat) (x : Slot) :
    (x.resumeCall h).callJoin = if x.callJoin = some h then none else x.callJoin := by
  unfold Slot.resumeCall; split <;> rfl

/-! ### `Slot.abandon` -/

@[simp] theorem Slot.abandon_life (c : AbandonCause) (x : Slot) : (x.abandon c).life = x.life := rfl
@[simp] theorem Slot.abandon_fsm (c : AbandonCause) (x : Slot) : (x.abandon c).fsm = .hunting := rfl
@[simp] theorem Slot.abandon_td (c : AbandonCause) (x : Slot) : (x.abandon c).td = x.td := rfl
@[simp] theorem Slot.abandon_hcnt (c : AbandonCause) (x : Slot) : (x.abandon c).hcnt = x.hcnt := rfl
@[simp] theorem Slot.abandon_hbuf (c : AbandonCause) (x : Slot) : (x.abandon c).hbuf = x.hbuf := rfl
@[simp] theorem Slot.abandon_fpos (c : AbandonCause) (x : Slot) : (x.abandon c).fpos = x.fpos := rfl
@[simp] theorem Slot.abandon_fbuf (c : AbandonCause) (x : Slot) : (x.abandon c).fbuf = x.fbuf := rfl
@[simp] theorem Slot.abandon_fidx (c : AbandonCause) (x : Slot) : (x.abandon c).fidx = x.fidx := rfl
@[simp] theorem Slot.abandon_pkt (c : AbandonCause) (x : Slot) : (x.abandon c).pkt = x.pkt := rfl
@[simp] theorem Slot.abandon_pay (c : AbandonCause) (x : Slot) : (x.abandon c).pay = x.pay := rfl
@[simp] theorem Slot.abandon_pktLive (c : AbandonCause) (x : Slot) : (x.abandon c).pktLive = false := rfl
@[simp] theorem Slot.abandon_cfg (c : AbandonCause) (x : Slot) : (x.abandon c).cfg = x.cfg := rfl
@[simp] theorem Slot.abandon_dev (c : AbandonCause) (x : Slot) : (x.abandon c).dev = x.dev := rfl
@[simp] theorem Slot.abandon_devOpen (c : AbandonCause) (x : Slot) : (x.abandon c).devOpen = x.devOpen := rfl
@[simp] theorem Slot.abandon_savedCfg (c : AbandonCause) (x : Slot) : (x.abandon c).savedCfg = x.savedCfg := rfl
@[simp] theorem Slot.abandon_cfgChanged (c : AbandonCause) (x : Slot) : (x.abandon c).cfgChanged = x.cfgChanged := rfl
@[simp] theorem Slot.abandon_exit (c : AbandonCause) (x : Slot) : (x.abandon c).exit = x.exit := rfl
@[simp] theorem Slot.abandon_sentinelDone (c : AbandonCause) (x : Slot) : (x.abandon c).sentinelDone = x.sentinelDone := rfl
@[simp] theorem Slot.abandon_call (c : AbandonCause) (x : Slot) : (x.abandon c).call = x.call := rfl
@[simp] theorem Slot.abandon_handle (c : AbandonCause) (x : Slot) : (x.abandon c).handle = x.handle := rfl
@[simp] theorem Slot.abandon_joinWait (c : AbandonCause) (x : Slot) : (x.abandon c).joinWait = x.joinWait := rfl
@[simp] theorem Slot.abandon_okPending (c : AbandonCause) (x : Slot) : (x.abandon c).okPending = x.okPending := rfl
@[simp] theorem Slot.abandon_callJoin (c : AbandonCause) (x : Slot) : (x.abandon c).callJoin = x.callJoin := rfl
@[simp] theorem Slot.abandon_stream (c : AbandonCause) (x : Slot) : (x.abandon c).stream = x.stream := rfl
@[simp] theorem Slot.abandon_causes (c : AbandonCause) (x : Slot) : (x.abandon c).causes = c :: x.causes := rfl

/-! ### `Slot.fatal` -/

@[simp] theorem Slot.fatal_life (v : ExitValue) (x : Slot) : (x.fatal v).life = .teardown := rfl
@[simp] theorem Slot.fatal_fsm (v : ExitValue) (x : Slot) : (x.fatal v).fsm = x.fsm := rfl
@[simp] theorem Slot.fatal_td (v : ExitValue) (x : Slot) : (x.fatal v).td = .restore := rfl
@[simp] theorem Slot.fatal_hcnt (v : ExitValue) (x : Slot) : (x.fatal v).hcnt = x.hcnt := rfl
@[simp] theorem Slot.fatal_hbuf (v : ExitValue) (x : Slot) : (x.fatal v).hbuf = x.hbuf := rfl
@[simp] theorem Slot.fatal_fpos (v : ExitValue) (x : Slot) : (x.fatal v).fpos = x.fpos := rfl
@[simp] theorem Slot.fatal_fbuf (v : ExitValue) (x : Slot) : (x.fatal v).fbuf = x.fbuf := rfl
@[simp] theorem Slot.fatal_fidx (v : ExitValue) (x : Slot) : (x.fatal v).fidx = x.fidx := rfl
@[simp] theorem Slot.fatal_pkt (v : ExitValue) (x : Slot) : (x.fatal v).pkt = x.pkt := rfl
@[simp] theorem Slot.fatal_pay (v : ExitValue) (x : Slot) : (x.fatal v).pay = x.pay := rfl
@[simp] theorem Slot.fatal_pktLive (v : ExitValue) (x : Slot) : (x.fatal v).pktLive = false := rfl
@[simp] theorem Slot.fatal_cfg (v : ExitValue) (x : Slot) : (x.fatal v).cfg = x.cfg := rfl
@[simp] theorem Slot.fatal_dev (v : ExitValue) (x : Slot) : (x.fatal v).dev = x.dev := rfl
@[simp] theorem Slot.fatal_devOpen (v : ExitValue) (x : Slot) : (x.fatal v).devOpen = x.devOpen := rfl
@[simp] theorem Slot.fatal_savedCfg (v : ExitValue) (x : Slot) : (x.fatal v).savedCfg = x.savedCfg := rfl
@[simp] theorem Slot.fatal_cfgChanged (v : ExitValue) (x : Slot) : (x.fatal v).cfgChanged = x.cfgChanged := rfl
@[simp] theorem Slot.fatal_exit (v : ExitValue) (x : Slot) : (x.fatal v).exit = v := rfl
@[simp] theorem Slot.fatal_sentinelDone (v : ExitValue) (x : Slot) : (x.fatal v).sentinelDone = x.sentinelDone := rfl
@[simp] theorem Slot.fatal_call (v : ExitValue) (x : Slot) : (x.fatal v).call = x.call := rfl
@[simp] theorem Slot.fatal_handle (v : ExitValue) (x : Slot) : (x.fatal v).handle = x.handle := rfl
@[simp] theorem Slot.fatal_joinWait (v : ExitValue) (x : Slot) : (x.fatal v).joinWait = x.joinWait := rfl
@[simp] theorem Slot.fatal_okPending (v : ExitValue) (x : Slot) : (x.fatal v).okPending = x.okPending := rfl
@[simp] theorem Slot.fatal_callJoin (v : ExitValue) (x : Slot) : (x.fatal v).callJoin = x.callJoin := rfl
@[simp] theorem Slot.fatal_stream (v : ExitValue) (x : Slot) : (x.fatal v).stream = x.stream := rfl
@[simp] theorem Slot.fatal_causes (v : ExitValue) (x : Slot) : (x.fatal v).causes = x.causes := rfl

/-! ### `Slot.releasePacket` -/

@[simp] theorem Slot.releasePacket_life (n : Nat) (x : Slot) : (x.releasePacket n).life = x.life := rfl
@[simp] theorem Slot.releasePacket_fsm (n : Nat) (x : Slot) : (x.releasePacket n).fsm = x.fsm := rfl
@[simp] theorem Slot.releasePacket_td (n : Nat) (x : Slot) : (x.releasePacket n).td = x.td := rfl
@[simp] theorem Slot.releasePacket_hcnt (n : Nat) (x : Slot) : (x.releasePacket n).hcnt = x.hcnt := rfl
@[simp] theorem Slot.releasePacket_hbuf (n : Nat) (x : Slot) : (x.releasePacket n).hbuf = x.hbuf := rfl
@[simp] theorem Slot.releasePacket_fpos (n : Nat) (x : Slot) : (x.releasePacket n).fpos = x.fpos := rfl
@[simp] theorem Slot.releasePacket_fbuf (n : Nat) (x : Slot) : (x.releasePacket n).fbuf = x.fbuf := rfl
@[simp] theorem Slot.releasePacket_fidx (n : Nat) (x : Slot) : (x.releasePacket n).fidx = x.fidx := rfl
@[simp] theorem Slot.releasePacket_pkt (n : Nat) (x : Slot) : (x.releasePacket n).pkt = freePkt n := rfl
@[simp] theorem Slot.releasePacket_pay (n : Nat) (x : Slot) : (x.releasePacket n).pay = [] := rfl
@[simp] theorem Slot.releasePacket_pktLive (n : Nat) (x : Slot) : (x.releasePacket n).pktLive = x.pktLive := rfl
@[simp] theorem Slot.releasePacket_cfg (n : Nat) (x : Slot) : (x.releasePacket n).cfg = x.cfg := rfl
@[simp] theorem Slot.releasePacket_dev (n : Nat) (x : Slot) : (x.releasePacket n).dev = x.dev := rfl
@[simp] theorem Slot.releasePacket_devOpen (n : Nat) (x : Slot) : (x.releasePacket n).devOpen = x.devOpen := rfl
@[simp] theorem Slot.releasePacket_savedCfg (n : Nat) (x : Slot) : (x.releasePacket n).savedCfg = x.savedCfg := rfl
@[simp] theorem Slot.releasePacket_cfgChanged (n : Nat) (x : Slot) : (x.releasePacket n).cfgChanged = x.cfgChanged := rfl
@[simp] theorem Slot.releasePacket_exit (n : Nat) (x : Slot) : (x.releasePacket n).exit = x.exit := rfl
@[simp] theorem Slot.releasePacket_sentinelDone (n : Nat) (x : Slot) : (x.releasePacket n).sentinelDone = x.sentinelDone := rfl
@[simp] theorem Slot.releasePacket_call (n : Nat) (x : Slot) : (x.releasePacket n).call = x.call := rfl
@[simp] theorem Slot.releasePacket_handle (n : Nat) (x : Slot) : (x.releasePacket n).handle = x.handle := rfl
@[simp] theorem Slot.releasePacket_joinWait (n : Nat) (x : Slot) : (x.releasePacket n).joinWait = x.joinWait := rfl
@[simp] theorem Slot.releasePacket_okPending (n : Nat) (x : Slot) : (x.releasePacket n).okPending = x.okPending := rfl
@[simp] theorem Slot.releasePacket_callJoin (n : Nat) (x : Slot) : (x.releasePacket n).callJoin = x.callJoin := rfl
@[simp] theorem Slot.releasePacket_stream (n : Nat) (x : Slot) : (x.releasePacket n).stream = x.stream := rfl
@[simp] theorem Slot.releasePacket_causes (n : Nat) (x : Slot) : (x.releasePacket n).causes = x.causes := rfl

/-! ### `Slot.releaseWorker` -/

@[simp] theorem Slot.releaseWorker_life (n : Nat) (x : Slot) : (x.releaseWorker n).life = x.life := rfl
@[simp] theorem Slot.releaseWorker_fsm (n : Nat) (x : Slot) : (x.releaseWorker n).fsm = x.fsm := rfl
@[simp] theorem Slot.releaseWorker_td (n : Nat) (x : Slot) : (x.releaseWorker n).td = x.td := rfl
@[simp] theorem Slot.releaseWorker_hcnt (n : Nat) (x : Slot) : (x.releaseWorker n).hcnt = x.hcnt := rfl
@[simp] theorem Slot.releaseWorker_fpos (n : Nat) (x : Slot) : (x.releaseWorker n).fpos = x.fpos := rfl
@[simp] theorem Slot.releaseWorker_fidx (n : Nat) (x : Slot) : (x.releaseWorker n).fidx = x.fidx := rfl
@[simp] theorem Slot.releaseWorker_pkt (n : Nat) (x : Slot) : (x.releaseWorker n).pkt = freePkt n := rfl
@[simp] theorem Slot.releaseWorker_pay (n : Nat) (x : Slot) : (x.releaseWorker n).pay = [] := rfl
@[simp] theorem Slot.releaseWorker_pktLive (n : Nat) (x : Slot) : (x.releaseWorker n).pktLive = x.pktLive := rfl
@[simp] theorem Slot.releaseWorker_devOpen (n : Nat) (x : Slot) : (x.releaseWorker n).devOpen = x.devOpen := rfl
@[simp] theorem Slot.releaseWorker_cfgChanged (n : Nat) (x : Slot) : (x.releaseWorker n).cfgChanged = x.cfgChanged := rfl
@[simp] theorem Slot.releaseWorker_exit (n : Nat) (x : Slot) : (x.releaseWorker n).exit = x.exit := rfl
@[simp] theorem Slot.releaseWorker_sentinelDone (n : Nat) (x : Slot) : (x.releaseWorker n).sentinelDone = x.sentinelDone := rfl
@[simp] theorem Slot.releaseWorker_call (n : Nat) (x : Slot) : (x.releaseWorker n).call = x.call := rfl
@[simp] theorem Slot.releaseWorker_handle (n : Nat) (x : Slot) : (x.releaseWorker n).handle = x.handle := rfl
@[simp] theorem Slot.releaseWorker_joinWait (n : Nat) (x : Slot) : (x.releaseWorker n).joinWait = x.joinWait := rfl
@[simp] theorem Slot.releaseWorker_okPending (n : Nat) (x : Slot) : (x.releaseWorker n).okPending = x.okPending := rfl
@[simp] theorem Slot.releaseWorker_callJoin (n : Nat) (x : Slot) : (x.releaseWorker n).callJoin = x.callJoin := rfl
@[simp] theorem Slot.releaseWorker_stream (n : Nat) (x : Slot) : (x.releaseWorker n).stream = x.stream := rfl
@[simp] theorem Slot.releaseWorker_causes (n : Nat) (x : Slot) : (x.releaseWorker n).causes = x.causes := rfl

end Sys2Proof.Machine
end

