-- ==== Sys2Proof/Laws/Ops.lean ====
section
/-!
SUPPORT. What each shared operation can do, said once: the slot table, the payload buffer and its canonical form, the two ways
an event fires, the acceptance procedures, the device operations and the handle table.
-/

namespace Sys2Proof.Machine

/-! ### The slot table -/

theorem slotAt_eq_getD (xs : List Slot) (k : Nat) : slotAt xs k = xs.getD k Slot.reset := by
  induction xs generalizing k with
  | nil => simp [slotAt]
  | cons x xs ih => cases k <;> simp [slotAt, ih]

theorem slotAt_of_length_le (xs : List Slot) (k : Nat) (h : xs.length ≤ k) : slotAt xs k = Slot.reset := by
  simp [slotAt_eq_getD, List.getD, List.getElem?_eq_none h]

theorem slotAt_setSlotAt (xs : List Slot) (k j : Nat) (x : Slot) :
    slotAt (setSlotAt xs k x) j = if j = k then x else slotAt xs j := by
  induction xs generalizing k j with
  | nil =>
    induction k generalizing j with
    | zero => cases j <;> simp [setSlotAt, slotAt]
    | succ k ih => cases j <;> simp [setSlotAt, slotAt, ih]
  | cons y ys ih =>
    cases k <;> cases j <;> simp [setSlotAt, slotAt, ih]

theorem length_setSlotAt (xs : List Slot) (k : Nat) (x : Slot) :
    (setSlotAt xs k x).length = max xs.length (k + 1) := by
  induction xs generalizing k with
  | nil =>
    induction k with
    | zero => simp [setSlotAt]
    | succ k ih => simp [setSlotAt, ih]
  | cons y ys ih => cases k <;> simp [setSlotAt, ih]

/-- Writing a listed slot with what it holds changes nothing. -/
theorem setSlotAt_slotAt (xs : List Slot) (k : Nat) (h : k < xs.length) : setSlotAt xs k (slotAt xs k) = xs := by
  induction xs generalizing k with
  | nil => simp at h
  | cons y ys ih =>
    cases k with
    | zero => rfl
    | succ k => simp [setSlotAt, slotAt, ih k (by simpa using h)]

/-- Below the table's end a write is the list's own. -/
theorem setSlotAt_eq_set (xs : List Slot) (k : Nat) (x : Slot) (h : k < xs.length) : setSlotAt xs k x = xs.set k x := by
  induction xs generalizing k with
  | nil => simp at h
  | cons y ys ih =>
    cases k with
    | zero => rfl
    | succ k => simp [setSlotAt, ih k (by simpa using h)]

/-- Every member of the table after a write is the new slot, a member before, or a slot as after reset. -/
theorem mem_setSlotAt {xs : List Slot} {k : Nat} {x y : Slot} (h : y ∈ setSlotAt xs k x) :
    y = x ∨ y ∈ xs ∨ y = Slot.reset := by
  induction xs generalizing k with
  | nil =>
    induction k with
    | zero => simp [setSlotAt] at h; exact .inl h
    | succ k ih =>
      simp only [setSlotAt, List.mem_cons] at h
      rcases h with h | h
      · exact .inr (.inr h)
      · exact ih h
  | cons z zs ih =>
    cases k with
    | zero =>
      simp only [setSlotAt, List.mem_cons] at h
      rcases h with h | h
      · exact .inl h
      · exact .inr (.inl (List.mem_cons_of_mem _ h))
    | succ k =>
      simp only [setSlotAt, List.mem_cons] at h
      rcases h with h | h
      · exact .inr (.inl (h ▸ List.mem_cons_self))
      · rcases ih h with h | h | h
        · exact .inl h
        · exact .inr (.inl (List.mem_cons_of_mem _ h))
        · exact .inr (.inr h)

/-- A search of the table sees its slots only, not how far it is listed: the first slot with a property the reset slot has. -/
theorem findIdx_slotAt_congr {P : Slot → Bool} (h0 : P Slot.reset = true) {xs ys : List Slot}
    (h : ∀ j, P (slotAt xs j) = P (slotAt ys j)) : xs.findIdx P = ys.findIdx P := by
  induction xs generalizing ys with
  | nil =>
    cases ys with
    | nil => rfl
    | cons y ys => simp [List.findIdx_cons, show P y = true from (h 0).symm.trans h0]
  | cons x xs ih =>
    cases ys with
    | nil => simp [List.findIdx_cons, show P x = true from (h 0).trans h0]
    | cons y ys => rw [List.findIdx_cons, List.findIdx_cons, show P x = P y from h 0, ih (fun j => h (j + 1))]

/-- Where no slot has a property, no listed one has. -/
theorem findIdx?_slotAt_none {P : Slot → Bool} {ys : List Slot} (h : ∀ j, P (slotAt ys j) = false) : ys.findIdx? P = none := by
  induction ys with
  | nil => rfl
  | cons y ys ih => simp [List.findIdx?_cons, show P y = false from h 0, ih (fun j => h (j + 1))]

/-- The same for a property the reset slot has not. -/
theorem findIdx?_slotAt_congr {P : Slot → Bool} (h0 : P Slot.reset = false) {xs ys : List Slot}
    (h : ∀ j, P (slotAt xs j) = P (slotAt ys j)) : xs.findIdx? P = ys.findIdx? P := by
  induction xs generalizing ys with
  | nil => rw [findIdx?_slotAt_none (fun j => (h j).symm.trans h0)]; rfl
  | cons x xs ih =>
    cases ys with
    | nil => rw [findIdx?_slotAt_none (fun j => (h j).trans h0)]; rfl
    | cons y ys => rw [List.findIdx?_cons, List.findIdx?_cons, show P x = P y from h 0, ih (fun j => h (j + 1))]

/-- Whether any slot has a property the reset slot has not. -/
theorem any_slotAt_congr {P : Slot → Bool} (h0 : P Slot.reset = false) {xs ys : List Slot}
    (h : ∀ j, P (slotAt xs j) = P (slotAt ys j)) : xs.any P = ys.any P := by
  rw [Bool.eq_iff_iff, ← List.findIdx?_isSome, ← List.findIdx?_isSome, findIdx?_slotAt_congr h0 h]

@[simp] theorem State.setSlot_slot (s : State) (k j : Nat) (x : Slot) :
    (s.setSlot k x).slot j = if j = k then x else s.slot j := slotAt_setSlotAt s.slots k j x

/-- A slot that is not FREE is listed. -/
theorem State.slot_listed (s : State) (k : Nat) (h : (s.slot k).life ≠ .free) : k < s.slots.length := by
  by_contra hk
  exact h (by rw [State.slot, slotAt_of_length_le _ _ (Nat.le_of_not_lt hk)]; rfl)

/-- A listed slot is a member of the table. -/
theorem State.slot_mem (s : State) (k : Nat) (h : k < s.slots.length) : s.slot k ∈ s.slots := by
  simp [State.slot, slotAt_eq_getD, List.getD, List.getElem?_eq_getElem h]

/-- A property of every listed slot and of the reset slot is one of every slot. -/
theorem State.slot_of_forall (s : State) (P : Slot → Prop) (h : ∀ x ∈ s.slots, P x) (h0 : P Slot.reset) (k : Nat) :
    P (s.slot k) := by
  by_cases hk : k < s.slots.length
  · exact h _ (s.slot_mem k hk)
  · rw [State.slot, slotAt_of_length_le _ _ (Nat.le_of_not_lt hk)]; exact h0

theorem State.setSlot_self (s : State) (k : Nat) (h : (s.slot k).life ≠ .free) : s.setSlot k (s.slot k) = s := by
  unfold State.setSlot State.slot
  rw [setSlotAt_slotAt _ _ (s.slot_listed k h)]

/-! ### Events -/

/-- All `fire` can do: it goes on exactly where the event is selected, and then writes one slot. -/
theorem State.fire_next_iff (s t : State) (k : Nat) (m : String) (sel : Slot → Bool) (act : Slot → Slot) :
    s.fire k m sel act = .next t ↔ sel (s.slot k) = true ∧ t = s.setSlot k (act (s.slot k)) := by
  unfold State.fire
  by_cases h : sel (s.slot k) = true
  · rw [if_pos h]
    simp [h, eq_comm]
  · rw [if_neg h]
    simp [h]

theorem State.fire_of_sel (s : State) (k : Nat) (m : String) (sel : Slot → Bool) (act : Slot → Slot)
    (h : sel (s.slot k) = true) : s.fire k m sel act = .next (s.setSlot k (act (s.slot k))) := by
  simp [State.fire, h]

theorem State.fire_refused (s : State) (k : Nat) (m : String) (sel : Slot → Bool) (act : Slot → Slot)
    (h : sel (s.slot k) = false) : s.fire k m sel act = .refused (.eventNotSelected m) := by
  simp [State.fire, h]

/-- `fire` never faults. -/
theorem State.fire_ne_fault (s : State) (k : Nat) (m : String) (sel : Slot → Bool) (act : Slot → Slot) (e : Fault) :
    s.fire k m sel act ≠ .fault e := by
  unfold State.fire
  split <;> simp

/-- All `fireFrame` can do. -/
theorem State.fireFrame_next_iff (s t : State) (k : Nat) (m : String) (sel : Slot → Bool) (act : Slot → Except Fault Slot) :
    s.fireFrame k m sel act = .next t ↔ sel (s.slot k) = true ∧ ∃ x, act (s.slot k) = .ok x ∧ t = s.setSlot k x := by
  unfold State.fireFrame
  by_cases h : sel (s.slot k) = true
  · rw [if_pos h]
    cases h2 : act (s.slot k) <;> simp [h, eq_comm]
  · rw [if_neg h]
    simp [h]

theorem State.fireFrame_fault_iff (s : State) (k : Nat) (m : String) (sel : Slot → Bool) (act : Slot → Except Fault Slot)
    (e : Fault) : s.fireFrame k m sel act = .fault e ↔ sel (s.slot k) = true ∧ act (s.slot k) = .error e := by
  unfold State.fireFrame
  by_cases h : sel (s.slot k) = true
  · rw [if_pos h]
    cases h2 : act (s.slot k) <;> simp [h]
  · rw [if_neg h]
    simp [h]

/-! ### The payload buffer -/

theorem PayBuf.read_write (m : PayBuf) (i j : Nat) (v : Byte) :
    PayBuf.read (PayBuf.write m i v) j = if j = i then some v else PayBuf.read m j := by
  induction m with
  | nil => simp [PayBuf.write, PayBuf.read]
  | cons c m ih =>
    obtain ⟨a, w⟩ := c
    unfold PayBuf.write
    split
    · simp [PayBuf.read]
    · split
      · next h1 h2 => subst h2; simp only [PayBuf.read]; split <;> rfl
      · next h1 h2 =>
        simp only [PayBuf.read, ih]
        by_cases hj : j = a
        · simp [hj, Ne.symm h2]
        · simp [hj]

/-- Every listed index after a write was listed before or is the one written. -/
theorem PayBuf.mem_write {m : PayBuf} {i : Nat} {v : Byte} {c : Host.Cell} (h : c ∈ PayBuf.write m i v) :
    c = (i, v) ∨ c ∈ m := by
  induction m with
  | nil => simpa [PayBuf.write] using h
  | cons d m ih =>
    obtain ⟨a, w⟩ := d
    unfold PayBuf.write at h
    split at h
    · simpa using h
    · split at h
      · simp only [List.mem_cons] at h ⊢
        rcases h with h | h
        · exact .inl h
        · exact .inr (.inr h)
      · simp only [List.mem_cons] at h ⊢
        rcases h with h | h
        · exact .inr (.inl h)
        · rcases ih h with h | h
          · exact .inl h
          · exact .inr (.inr h)

/-- A write keeps the canonical form. -/
theorem PayBuf.wf_write (m : PayBuf) (i : Nat) (v : Byte) (h : PayBuf.wf m) : PayBuf.wf (PayBuf.write m i v) := by
  induction m with
  | nil => simp [PayBuf.write]
  | cons c m ih =>
    obtain ⟨a, w⟩ := c
    obtain ⟨h1, h2⟩ := List.pairwise_cons.mp h
    unfold PayBuf.write
    split
    · next hlt =>
      refine List.pairwise_cons.mpr ⟨fun d hd => ?_, h⟩
      rcases List.mem_cons.mp hd with rfl | hd
      · exact hlt
      · exact lt_trans hlt (h1 d hd)
    · split
      · next heq => subst heq; exact List.pairwise_cons.mpr ⟨h1, h2⟩
      · next hlt hne =>
        refine List.pairwise_cons.mpr ⟨fun d hd => ?_, ih h2⟩
        rcases PayBuf.mem_write hd with rfl | hd
        · exact lt_of_le_of_ne (Nat.le_of_not_lt hlt) (fun e => hne e.symm)
        · exact h1 d hd

/-- The reset slot's payload buffer is canonical, and so is a released one: nothing is listed. -/
theorem PayBuf.wf_reset : PayBuf.wf Slot.reset.pay := List.Pairwise.nil

/-- All `memWrite` can do (R73). -/
theorem memWrite_ok_iff (p : Params) (m m' : PayBuf) (i : Nat) (v : Byte) :
    memWrite p m i v = .ok m' ↔ i < 4 * p.maxFrames.val ∧ m' = PayBuf.write m i v := by
  unfold memWrite
  by_cases h : i < 4 * p.maxFrames.val
  · rw [if_pos h]
    simp [h, eq_comm]
  · rw [if_neg h]
    simp [h]

/-- Consecutive writes that succeed: which index then reads what. -/
theorem memWriteAll_read (p : Params) (m m' : PayBuf) (i : Nat) (vs : List Byte) (h : memWriteAll p m i vs = .ok m')
    (j : Nat) : PayBuf.read m' j = if i ≤ j ∧ j < i + vs.length then vs[j - i]? else PayBuf.read m j := by
  induction vs generalizing m i with
  | nil =>
    simp only [memWriteAll, Except.ok.injEq] at h
    subst h
    have : ¬ (i ≤ j ∧ j < i + ([] : List Byte).length) := by simp
    rw [if_neg this]
  | cons v vs ih =>
    unfold memWriteAll at h
    split at h
    · next m1 h1 =>
      obtain ⟨-, rfl⟩ := (memWrite_ok_iff p m m1 i v).mp h1
      rw [ih _ _ h, PayBuf.read_write]
      rcases Nat.lt_trichotomy j i with hj | rfl | hj
      · rw [if_neg (by omega), if_neg (by omega), if_neg (by omega)]
      · rw [if_neg (by omega), if_pos rfl, if_pos (by simp)]
        simp
      · obtain ⟨d, rfl⟩ : ∃ d, j = i + 1 + d := ⟨j - (i + 1), by omega⟩
        have e1 : i + 1 + d - (i + 1) = d := by omega
        have e2 : i + 1 + d - i = d + 1 := by omega
        by_cases hd : d < vs.length
        · rw [if_pos (by omega), if_pos (by simp; omega), e1, e2, List.getElem?_cons_succ]
        · rw [if_neg (by omega), if_neg (by omega), if_neg (by simp; omega)]
    · cases h

/-- Consecutive writes keep the canonical form. -/
theorem memWriteAll_wf (p : Params) (m m' : PayBuf) (i : Nat) (vs : List Byte) (h : memWriteAll p m i vs = .ok m')
    (hm : PayBuf.wf m) : PayBuf.wf m' := by
  induction vs generalizing m i with
  | nil =>
    simp only [memWriteAll, Except.ok.injEq] at h
    exact h ▸ hm
  | cons v vs ih =>
    unfold memWriteAll at h
    split at h
    · next m1 h1 =>
      obtain ⟨-, rfl⟩ := (memWrite_ok_iff p m m1 i v).mp h1
      exact ih _ _ h (PayBuf.wf_write m i v hm)
    · cases h

/-- Consecutive writes list only indices that exist. -/
theorem memWriteAll_below (p : Params) (m m' : PayBuf) (i : Nat) (vs : List Byte) (h : memWriteAll p m i vs = .ok m')
    (hm : ∀ c ∈ m, c.1 < 4 * p.maxFrames.val) : ∀ c ∈ m', c.1 < 4 * p.maxFrames.val := by
  induction vs generalizing m i with
  | nil =>
    simp only [memWriteAll, Except.ok.injEq] at h
    exact h ▸ hm
  | cons v vs ih =>
    unfold memWriteAll at h
    split at h
    · next m1 h1 =>
      obtain ⟨hi, rfl⟩ := (memWrite_ok_iff p m m1 i v).mp h1
      refine ih _ _ h (fun c hc => ?_)
      rcases PayBuf.mem_write hc with rfl | hc
      · exact hi
      · exact hm c hc
    · cases h

/-- Writes inside the buffer succeed. -/
theorem memWriteAll_ok (p : Params) (m : PayBuf) (i : Nat) (vs : List Byte) (h : i + vs.length ≤ 4 * p.maxFrames.val) :
    ∃ m', memWriteAll p m i vs = .ok m' := by
  induction vs generalizing m i with
  | nil => exact ⟨m, rfl⟩
  | cons v vs ih =>
    simp only [List.length_cons] at h
    have h1 : memWrite p m i v = .ok (PayBuf.write m i v) := (memWrite_ok_iff ..).mpr ⟨by omega, rfl⟩
    obtain ⟨m', hm'⟩ := ih (PayBuf.write m i v) (i + 1) (by omega)
    exact ⟨m', by simp [memWriteAll, h1, hm']⟩

/-! ### Acceptance -/

/-- All `AcceptHeader` can do (R180): it abandons with a header cause, or it accepts. -/
theorem Slot.acceptHeader_cases (p : Params) (a : Bool) (b : Byte) (x : Slot) :
    (x.acceptHeader p a b = x.abandon .hdrChecksum ∧ headerDecode (x.hbuf.set 8 b) = none) ∨
    (∃ f, headerDecode (x.hbuf.set 8 b) = some f ∧
      ((x.acceptHeader p a b = x.abandon .hdrAlloc ∧
          (p.maxFrames.val < f.nfr.toNat ∨ (p.allocMayFail = true ∧ a = false))) ∨
       (f.nfr.toNat ≤ p.maxFrames.val ∧ ¬ (p.allocMayFail = true ∧ a = false) ∧
        ((f.nfr = 0 ∧ x.acceptHeader p a b = { x with pkt := f, pktLive := true, fsm := .delivering }) ∨
         (f.nfr ≠ 0 ∧ x.acceptHeader p a b =
            { x with pkt := f, pktLive := true, fidx := 0, fpos := 0, fsm := .readingFrames }))))) := by
  unfold Slot.acceptHeader
  cases h : headerDecode (x.hbuf.set 8 b) with
  | none => exact .inl ⟨rfl, rfl⟩
  | some f =>
    refine .inr ⟨f, rfl, ?_⟩
    by_cases h1 : p.maxFrames.val < f.nfr.toNat
    · exact .inl ⟨if_pos h1, .inl h1⟩
    · by_cases h2 : (p.allocMayFail && !a) = true
      · exact .inl ⟨by simp only [if_neg h1, if_pos h2], .inr (by simpa using h2)⟩
      · refine .inr ⟨by omega, by simpa using h2, ?_⟩
        by_cases h3 : f.nfr = 0
        · exact .inl ⟨h3, by simp only [if_neg h1, if_neg h2, if_pos h3]⟩
        · exact .inr ⟨h3, by simp only [if_neg h1, if_neg h2, if_neg h3]⟩

/-- All `AcceptFrame` can do where it does not fault (R181): it abandons, or it writes the four bytes and goes on. -/
theorem Slot.acceptFrame_cases (p : Params) (b : Byte) (x y : Slot) (h : x.acceptFrame p b = .ok y) :
    (y = x.abandon .frmChecksum ∧ frameDecode (x.fbuf.set 5 b) = none) ∨
    (∃ l m, frameDecode (x.fbuf.set 5 b) = some l ∧ memWriteAll p x.pay (4 * x.fidx.val) l.toList = .ok m ∧
      ((x.fidx.val + 1 = x.pkt.nfr.toNat ∧ y = { x with pay := m, fidx := x.fidx + 1, fsm := .delivering }) ∨
       (x.fidx.val + 1 ≠ x.pkt.nfr.toNat ∧ y = { x with pay := m, fidx := x.fidx + 1, fpos := 0 }))) := by
  unfold Slot.acceptFrame at h
  split at h
  · next hd => exact .inl ⟨by simpa [eq_comm] using h, hd⟩
  · next l hd =>
    refine .inr ?_
    split at h
    · cases h
    · next m hm =>
      refine ⟨l, m, hd, hm, ?_⟩
      split at h
      · next hn => exact .inl ⟨hn, by simpa [eq_comm] using h⟩
      · next hn => exact .inr ⟨hn, by simpa [eq_comm] using h⟩

/-- `AcceptFrame` does not fault where the frame's bytes lie inside the payload buffer. -/
theorem Slot.acceptFrame_ok (p : Params) (b : Byte) (x : Slot) (h : x.fidx.val < p.maxFrames.val) :
    ∃ y, x.acceptFrame p b = .ok y := by
  unfold Slot.acceptFrame
  cases hd : frameDecode (x.fbuf.set 5 b) with
  | none => exact ⟨_, rfl⟩
  | some l =>
    obtain ⟨m, hm⟩ := memWriteAll_ok p x.pay (4 * x.fidx.val) l.toList (by simp; omega)
    simp only [hm]
    split <;> exact ⟨_, rfl⟩

/-! ### Device operations, allocation, handles -/

theorem State.restoreCfg_eq (s : State) (x : Slot) :
    s.restoreCfg x =
      { s with effects := (if x.cfgChanged then [.devSetCfg x.dev x.savedCfg s.ans.restoreOk] else []) ++ s.effects } := by
  unfold State.restoreCfg
  split <;> rfl

theorem State.closeDev_eq (s : State) (x : Slot) :
    s.closeDev x = { s with effects := .devClose x.dev s.ans.closeOk :: s.effects } := rfl

/-- The slot START allocates is FREE, granted, inside MAX_INSTANCES, and at most one past the table (R244). -/
theorem State.allocSlot_some (s : State) (k : Nat) (h : s.allocSlot = some k) :
    (s.slot k).life = .free ∧ s.ans.slotGranted = true ∧ k ≤ s.slots.length ∧ ∀ n ∈ s.params.maxInstances, k < n := by
  have key : ∀ j, j = s.slots.findIdx (fun x => x.life == .free) → (s.slot j).life = .free ∧ j ≤ s.slots.length := by
    rintro j rfl
    refine ⟨?_, List.findIdx_le_length⟩
    by_cases hj : s.slots.findIdx (fun x => x.life == .free) < s.slots.length
    · have := List.findIdx_getElem (w := hj)
      simpa [State.slot, slotAt_eq_getD, List.getD, List.getElem?_eq_getElem hj] using this
    · rw [State.slot, slotAt_of_length_le _ _ (Nat.le_of_not_lt hj)]; rfl
  unfold State.allocSlot at h
  simp only at h
  split at h
  · cases h
  · next hg =>
    split at h
    · next hm =>
      obtain ⟨h1, h2⟩ := key k (by simpa [eq_comm] using h)
      exact ⟨h1, by simpa using hg, h2, by simp [hm]⟩
    · next n hm =>
      split at h
      · next hlt =>
        have hk : k = s.slots.findIdx (fun x => x.life == .free) := by simpa [eq_comm] using h
        obtain ⟨h1, h2⟩ := key k hk
        exact ⟨h1, by simpa using hg, h2, by simp [hm]; omega⟩
      · cases h

/-- A handle that is found is that of a live slot. -/
theorem State.findHandle_some (s : State) (h k : Nat) (hk : s.findHandle h = some k) :
    k < s.slots.length ∧ (s.slot k).life ≠ .free ∧ (s.slot k).handle = h := by
  obtain ⟨hlt, hp, -⟩ := List.findIdx?_eq_some_iff_getElem.mp hk
  refine ⟨hlt, ?_⟩
  simpa [State.slot, slotAt_eq_getD, List.getD, List.getElem?_eq_getElem hlt] using hp

/-- A handle that is not found is that of no live slot. -/
theorem State.findHandle_none (s : State) (h : Nat) (hn : s.findHandle h = none) (k : Nat) :
    (s.slot k).life = .free ∨ (s.slot k).handle ≠ h := by
  by_contra hc
  simp only [not_or, ne_eq, not_not] at hc
  have hk := s.slot_listed k hc.1
  have := List.findIdx?_eq_none_iff.mp hn (s.slot k) (s.slot_mem k hk)
  simp [hc.1, hc.2] at this

/-- A live handle is found in its own slot, where handles are distinct (R305). -/
theorem State.findHandle_of_live {s : State} {k h : Nat} (hi : s.handlesInv) (hl : (s.slot k).live)
    (hh : (s.slot k).handle = h) : s.findHandle h = some k := by
  cases hf : s.findHandle h with
  | none => exact (s.findHandle_none h hf k).elim (absurd · hl) (absurd hh)
  | some j =>
    obtain ⟨a, b, c⟩ := s.findHandle_some h j hf
    rw [hi.2.1 j a k (s.slot_listed k hl) b hl (c.trans hh.symm)]

/-- START allocates the slot `State.takesSlot` describes (R244). -/
theorem State.allocSlot_of_takesSlot {s : State} {k : Nat} (h : s.takesSlot k) : s.allocSlot = some k := by
  obtain ⟨h1, h2, h3, h4⟩ := h
  have hk : k ≤ s.slots.length := by
    by_contra hc
    exact h3 s.slots.length (by omega) (by rw [State.slot, slotAt_of_length_le _ _ le_rfl]; rfl)
  have get : ∀ j (hj : j < s.slots.length), s.slots[j] = s.slot j := fun j hj => by
    simp [State.slot, slotAt_eq_getD, List.getD, List.getElem?_eq_getElem hj]
  have key : s.slots.findIdx (fun x => x.life == .free) = k := by
    rcases Nat.lt_or_ge k s.slots.length with hlt | hge
    · rw [List.findIdx_eq hlt]
      exact ⟨by rw [get]; simp [h2], fun j hj => by rw [get]; simpa using h3 j hj⟩
    · obtain rfl : k = s.slots.length := by omega
      rw [List.findIdx_eq_length]
      intro x hx
      obtain ⟨j, hj, rfl⟩ := List.getElem_of_mem hx
      rw [get]
      simpa using h3 j hj
  unfold State.allocSlot
  simp only [key, h1]
  cases hm : s.params.maxInstances with
  | none => rfl
  | some n => simp [h4 n hm]

/-! ### Waiting in JOIN -/

/-- When the handler call in progress returns: the environment lets it, and it waits in no JOIN (R334). -/
theorem Slot.callReturns_iff (a : Answers) (x : Slot) :
    x.callReturns a = true ↔ a.handlerReturns = true ∧ x.callJoin = none := by
  simp [Slot.callReturns]

/-- A call that waits in a JOIN does not return. -/
@[simp] theorem Slot.callReturns_of_callJoin (a : Answers) (x : Slot) (h : Nat) (hx : x.callJoin = some h) :
    x.callReturns a = false := by
  simp [Slot.callReturns, hx]

@[simp] theorem State.resumeCalls_slot (s : State) (h j : Nat) : (s.resumeCalls h).slot j = (s.slot j).resumeCall h := by
  simp only [State.resumeCalls, State.slot]
  generalize s.slots = xs
  induction xs generalizing j with
  | nil => rfl
  | cons x xs ih =>
    cases j with
    | zero => rfl
    | succ j => exact ih j

@[simp] theorem State.resumeCalls_length (s : State) (h : Nat) : (s.resumeCalls h).slots.length = s.slots.length := by
  simp [State.resumeCalls]

@[simp] theorem State.holdCall_slot (s : State) (k h j : Nat) :
    (s.holdCall k h).slot j = if j = k then { s.slot k with callJoin := some h } else s.slot j := s.setSlot_slot k j _

/-- All the turn of START's result can do (R326): nothing, or the host receives the `Ok` that is on its way to it. -/
theorem State.startReturns_cases (s : State) (h : Nat) :
    s.startReturns h = s ∨
    ∃ k, s.findHandle h = some k ∧ (s.slot k).okPending = true ∧
      s.startReturns h = (s.setSlot k { s.slot k with okPending := false }).emit (.startResult (.ok h)) := by
  unfold State.startReturns
  split
  · exact .inl rfl
  · next k hk =>
    split
    · next hp => exact .inr ⟨k, hk, hp, rfl⟩
    · exact .inl rfl

/-- `Ok` of a START reaches the host where it is on its way (R326). -/
theorem State.startReturns_of_pending {s : State} {k h : Nat} (hi : s.handlesInv) (hl : (s.slot k).live)
    (hh : (s.slot k).handle = h) (hp : (s.slot k).okPending = true) :
    s.startReturns h = (s.setSlot k { s.slot k with okPending := false }).emit (.startResult (.ok h)) := by
  simp [State.startReturns, State.findHandle_of_live hi hl hh, hp]

end Sys2Proof.Machine
end

