-- ==== Sys2Proof/Laws/Exec.lean ====
section
/-!
SUPPORT. What an instruction, a fetch and a step can do, said once. `SlotMove` lists every move of an instance: the event, the
state in which it is selected, the slot after it, the effects it makes and the draws it has used. `exec_instance_iff` says that
an instance's instruction answers a next state exactly by such a move; the host operations and the fetch have an inversion
lemma each.
-/

namespace Sys2Proof.Machine

/-- The moves of the instance in slot `k`, from slot `x` with parameters `p`, answers `a` and draw counter `n`: the
instruction, the slot after, the effects (newest first), the draw counter after. -/
inductive SlotMove (p : Params) (a : Answers) (n k : Nat) (x : Slot) : Instr → Slot → List Effect → Nat → Prop
  | huntMarker (h1 : x.life = .running) (h2 : x.fsm = .hunting) :
      SlotMove p a n k x (.huntMarker k) { x with hcnt := 0, fsm := .readingHeader } [] n
  | huntSkip (b : Byte) (h1 : x.life = .running) (h2 : x.fsm = .hunting) (h3 : b ≠ p.marker) :
      SlotMove p a n k x (.huntSkip k b) x [] n
  | hdrByte (b : Byte) (h1 : x.life = .running) (h2 : x.fsm = .readingHeader) (h3 : topBit b = false)
      (h4 : x.hcnt.val < 8) :
      SlotMove p a n k x (.hdrByte k b) { x with hbuf := x.hbuf.set x.hcnt.val b x.hcnt.isLt, hcnt := x.hcnt + 1 } [] n
  | hdrLast (b : Byte) (h1 : x.life = .running) (h2 : x.fsm = .readingHeader) (h3 : topBit b = false)
      (h4 : x.hcnt.val = 8) :
      SlotMove p a n k x (.hdrLast k b) (Slot.acceptHeader p a.allocOk b { x with hbuf := x.hbuf.set 8 b }) [] n
  | hdrAbort (b : Byte) (h1 : x.life = .running) (h2 : x.fsm = .readingHeader) (h3 : topBit b = true) :
      SlotMove p a n k x (.hdrAbort k b) (x.abandon .hdrTopbit) [] n
  | frmByte (b : Byte) (h1 : x.life = .running) (h2 : x.fsm = .readingFrames) (h3 : topBit b = false)
      (h4 : x.fpos.val < 5) :
      SlotMove p a n k x (.frmByte k b) { x with fbuf := x.fbuf.set x.fpos.val b x.fpos.isLt, fpos := x.fpos + 1 } [] n
  | frmAbort (b : Byte) (h1 : x.life = .running) (h2 : x.fsm = .readingFrames) (h3 : topBit b = true)
      (h4 : x.fpos.val < 5) :
      SlotMove p a n k x (.frmAbort k b) (x.abandon .frmTopbit) [] n
  | frmLast (b : Byte) (y : Slot) (h1 : x.life = .running) (h2 : x.fsm = .readingFrames) (h4 : x.fpos.val = 5)
      (h5 : Slot.acceptFrame p b { x with fbuf := x.fbuf.set 5 b } = .ok y) :
      SlotMove p a n k x (.frmLast k b) y [] n
  | rdEos (h1 : x.life = .running) (h2 : x.fsm ≠ .delivering) :
      SlotMove p a n k x (.rdEos k) (x.fatal .endOfStream) [] n
  | rdErr (e : ErrCode) (h1 : x.life = .running) (h2 : x.fsm ≠ .delivering) :
      SlotMove p a n k x (.rdErr k e) (x.fatal (.ioError e)) [] n
  | deliver (h1 : x.life = .running) (h2 : x.fsm = .delivering) (h3 : x.call = none) :
      SlotMove p a n k x (.deliver k) { x with call := some .packet }
        [.deliver x.handle x.cfg.handler x.cfg.arg (x.packet n)] n
  | deliverRet (h1 : x.life = .running) (h2 : x.fsm = .delivering) (h3 : x.call = some .packet) (h4 : x.callJoin = none) :
      SlotMove p a n k x (.deliverRet k)
        { x.releasePacket n with call := none, pktLive := false, fsm := .hunting } [] (n + 1)
  | tdRestore (h1 : x.life = .teardown) (h2 : x.td = .restore) :
      SlotMove p a n k x (.tdRestore k) { x with cfgChanged := false, td := .close }
        (if x.cfgChanged then [.devSetCfg x.dev x.savedCfg a.restoreOk] else []) n
  | tdClose (h1 : x.life = .teardown) (h2 : x.td = .close) :
      SlotMove p a n k x (.tdClose k) { x with devOpen := false, td := .sentinel } [.devClose x.dev a.closeOk] n
  | tdSentinel (h1 : x.life = .teardown) (h2 : x.td = .sentinel) (h3 : x.sentinelDone = false) (h4 : x.call = none) :
      SlotMove p a n k x (.tdSentinel k) { x with call := some .sentinel }
        [.sentinel x.handle x.cfg.handler x.cfg.arg] n
  | tdSentinelRet (h1 : x.life = .teardown) (h2 : x.td = .sentinel) (h3 : x.call = some .sentinel) (h4 : x.callJoin = none) :
      SlotMove p a n k x (.tdSentinelRet k) { x with call := none, sentinelDone := true, td := .release } [] n
  | tdRelease (h1 : x.life = .teardown) (h2 : x.td = .release) :
      SlotMove p a n k x (.tdRelease k) { x.releaseWorker n with life := .stopped } [] (n + 1)
  | acceptHeader (b : Byte) (h1 : x.life = .running) (h2 : x.fsm = .readingHeader) (h3 : topBit b = false)
      (h4 : x.hcnt.val = 8) : SlotMove p a n k x (.acceptHeader k b) (Slot.acceptHeader p a.allocOk b x) [] n
  | acceptFrame (b : Byte) (y : Slot) (h1 : x.life = .running) (h2 : x.fsm = .readingFrames) (h4 : x.fpos.val = 5)
      (h5 : Slot.acceptFrame p b x = .ok y) : SlotMove p a n k x (.acceptFrame k b) y [] n
  | abandon (c : AbandonCause) (h1 : x.life = .running) (h2 : x.fsm = raisedIn c) :
      SlotMove p a n k x (.abandon k c) (x.abandon c) [] n
  | fatal (v : ExitValue) (h1 : x.life = .running) (h2 : x.fsm ≠ .delivering) :
      SlotMove p a n k x (.fatal k v) (x.fatal v) [] n

/-- The state a move leads to. -/
def State.moved (s : State) (k : Nat) (y : Slot) (es : List Effect) (d : Nat) : State :=
  { s with slots := setSlotAt s.slots k y, effects := es ++ s.effects, draw := d }

@[simp] theorem State.moved_slot (s : State) (k j : Nat) (y : Slot) (es : List Effect) (d : Nat) :
    (s.moved k y es d).slot j = if j = k then y else s.slot j := slotAt_setSlotAt s.slots k j y

/-- An instance's instruction answers a next state exactly by a move of its slot. -/
theorem exec_instance_iff (i : Instr) (s t : State) (k : Nat) (hk : instanceOf i = some k) :
    exec i s = .next t ↔
      ∃ y es d, SlotMove s.params s.ans s.draw k (s.slot k) i y es d ∧ t = s.moved k y es d := by
  cases i <;> simp only [instanceOf, reduceCtorEq, Option.some.injEq] at hk <;> subst hk <;> constructor
  case huntMarker.mp =>
    intro h
    unfold exec execHuntMarker at h
    obtain ⟨g, rfl⟩ := (State.fire_next_iff ..).mp h
    simp only [Slot.inFsm, decide_eq_true_eq] at g
    exact ⟨_, _, _, .huntMarker g.1 g.2, rfl⟩
  case huntSkip.mp =>
    intro h
    unfold exec execHuntSkip at h
    obtain ⟨g, rfl⟩ := (State.fire_next_iff ..).mp h
    simp only [Slot.inFsm, Bool.and_eq_true, decide_eq_true_eq, bne_iff_ne] at g
    exact ⟨_, _, _, .huntSkip _ g.1.1 g.1.2 g.2, rfl⟩
  case hdrByte.mp =>
    intro h
    unfold exec execHdrByte at h
    obtain ⟨g, rfl⟩ := (State.fire_next_iff ..).mp h
    simp only [Slot.inFsm, Bool.and_eq_true, decide_eq_true_eq, Bool.not_eq_true'] at g
    exact ⟨_, _, _, .hdrByte _ g.1.1.1 g.1.1.2 g.1.2 g.2, rfl⟩
  case hdrLast.mp =>
    intro h
    unfold exec execHdrLast at h
    obtain ⟨g, rfl⟩ := (State.fire_next_iff ..).mp h
    simp only [Slot.inFsm, Bool.and_eq_true, decide_eq_true_eq, Bool.not_eq_true'] at g
    exact ⟨_, _, _, .hdrLast _ g.1.1.1 g.1.1.2 g.1.2 g.2, rfl⟩
  case hdrAbort.mp =>
    intro h
    unfold exec execHdrAbort at h
    obtain ⟨g, rfl⟩ := (State.fire_next_iff ..).mp h
    simp only [Slot.inFsm, Bool.and_eq_true, decide_eq_true_eq] at g
    exact ⟨_, _, _, .hdrAbort _ g.1.1 g.1.2 g.2, rfl⟩
  case frmByte.mp =>
    intro h
    unfold exec execFrmByte at h
    obtain ⟨g, rfl⟩ := (State.fire_next_iff ..).mp h
    simp only [Slot.inFsm, Bool.and_eq_true, decide_eq_true_eq, Bool.not_eq_true'] at g
    exact ⟨_, _, _, .frmByte _ g.1.1.1 g.1.1.2 g.1.2 g.2, rfl⟩
  case frmAbort.mp =>
    intro h
    unfold exec execFrmAbort at h
    obtain ⟨g, rfl⟩ := (State.fire_next_iff ..).mp h
    simp only [Slot.inFsm, Bool.and_eq_true, decide_eq_true_eq] at g
    exact ⟨_, _, _, .frmAbort _ g.1.1.1 g.1.1.2 g.1.2 g.2, rfl⟩
  case frmLast.mp =>
    intro h
    unfold exec execFrmLast at h
    obtain ⟨g, y, hy, rfl⟩ := (State.fireFrame_next_iff ..).mp h
    simp only [Slot.inFsm, Bool.and_eq_true, decide_eq_true_eq] at g
    exact ⟨_, _, _, .frmLast _ y g.1.1 g.1.2 g.2 hy, rfl⟩
  case rdEos.mp =>
    intro h
    unfold exec execRdEos at h
    obtain ⟨g, rfl⟩ := (State.fire_next_iff ..).mp h
    simp only [Slot.reading, decide_eq_true_eq] at g
    exact ⟨_, _, _, .rdEos g.1 g.2, rfl⟩
  case rdErr.mp =>
    intro h
    unfold exec execRdErr at h
    obtain ⟨g, rfl⟩ := (State.fire_next_iff ..).mp h
    simp only [Slot.reading, decide_eq_true_eq] at g
    exact ⟨_, _, _, .rdErr _ g.1 g.2, rfl⟩
  case deliver.mp =>
    intro h
    unfold exec execDeliver at h
    obtain ⟨g, rfl⟩ := (State.fire_next_iff ..).mp h
    simp only [Slot.inFsm, Bool.and_eq_true, decide_eq_true_eq] at g
    exact ⟨_, _, _, .deliver g.1.1 g.1.2 g.2, rfl⟩
  case deliverRet.mp =>
    intro h
    unfold exec execDeliverRet at h
    obtain ⟨g, rfl⟩ := (State.fire_next_iff ..).mp h
    simp only [Slot.inFsm, Bool.and_eq_true, decide_eq_true_eq] at g
    exact ⟨_, _, _, .deliverRet g.1.1 g.1.2 g.2.1 g.2.2, rfl⟩
  case tdRestore.mp =>
    intro h
    unfold exec execTdRestore at h
    obtain ⟨g, rfl⟩ := (State.fire_next_iff ..).mp h
    rw [State.restoreCfg_eq] at g ⊢
    simp only [Slot.inTd, decide_eq_true_eq] at g
    exact ⟨_, _, _, .tdRestore g.1 g.2, rfl⟩
  case tdClose.mp =>
    intro h
    unfold exec execTdClose at h
    obtain ⟨g, rfl⟩ := (State.fire_next_iff ..).mp h
    simp only [Slot.inTd, decide_eq_true_eq] at g
    exact ⟨_, _, _, .tdClose g.1 g.2, rfl⟩
  case tdSentinel.mp =>
    intro h
    unfold exec execTdSentinel at h
    obtain ⟨g, rfl⟩ := (State.fire_next_iff ..).mp h
    simp only [Slot.inTd, Bool.and_eq_true, decide_eq_true_eq, Bool.not_eq_true'] at g
    exact ⟨_, _, _, .tdSentinel g.1.1.1 g.1.1.2 g.1.2 g.2, rfl⟩
  case tdSentinelRet.mp =>
    intro h
    unfold exec execTdSentinelRet at h
    obtain ⟨g, rfl⟩ := (State.fire_next_iff ..).mp h
    simp only [Slot.inTd, Bool.and_eq_true, decide_eq_true_eq] at g
    exact ⟨_, _, _, .tdSentinelRet g.1.1 g.1.2 g.2.1 g.2.2, rfl⟩
  case tdRelease.mp =>
    intro h
    unfold exec execTdRelease at h
    obtain ⟨g, rfl⟩ := (State.fire_next_iff ..).mp h
    simp only [Slot.inTd, decide_eq_true_eq] at g
    exact ⟨_, _, _, .tdRelease g.1 g.2, rfl⟩
  case acceptHeader.mp =>
    intro h
    unfold exec execAcceptHeader at h
    obtain ⟨g, rfl⟩ := (State.fire_next_iff ..).mp h
    simp only [Slot.inFsm, Bool.and_eq_true, decide_eq_true_eq, Bool.not_eq_true'] at g
    exact ⟨_, _, _, .acceptHeader _ g.1.1.1 g.1.1.2 g.1.2 g.2, rfl⟩
  case acceptFrame.mp =>
    intro h
    unfold exec execAcceptFrame at h
    obtain ⟨g, y, hy, rfl⟩ := (State.fireFrame_next_iff ..).mp h
    simp only [Slot.inFsm, Bool.and_eq_true, decide_eq_true_eq] at g
    exact ⟨_, _, _, .acceptFrame _ y g.1.1 g.1.2 g.2 hy, rfl⟩
  case abandon.mp =>
    intro h
    unfold exec execAbandon at h
    obtain ⟨g, rfl⟩ := (State.fire_next_iff ..).mp h
    simp only [Slot.inFsm, decide_eq_true_eq] at g
    exact ⟨_, _, _, .abandon _ g.1 g.2, rfl⟩
  case fatal.mp =>
    intro h
    unfold exec execFatal at h
    obtain ⟨g, rfl⟩ := (State.fire_next_iff ..).mp h
    simp only [decide_eq_true_eq] at g
    exact ⟨_, _, _, .fatal _ g.1 g.2, rfl⟩
  case frmLast.mpr =>
    unfold exec execFrmLast
    rintro ⟨y, es, d, ⟨⟩, rfl⟩
    next h1 h2 h4 h5 => exact (State.fireFrame_next_iff ..).mpr ⟨by simp [Slot.inFsm, h1, h2, h4], y, h5, rfl⟩
  case acceptFrame.mpr =>
    unfold exec execAcceptFrame
    rintro ⟨y, es, d, ⟨⟩, rfl⟩
    next h1 h2 h4 h5 => exact (State.fireFrame_next_iff ..).mpr ⟨by simp [Slot.inFsm, h1, h2, h4], y, h5, rfl⟩
  case tdRestore.mpr =>
    unfold exec execTdRestore
    rintro ⟨y, es, d, ⟨⟩, rfl⟩
    next h1 h2 =>
      refine (State.fire_next_iff ..).mpr ?_
      rw [State.restoreCfg_eq]
      exact ⟨decide_eq_true ⟨h1, h2⟩, rfl⟩
  all_goals
    rintro ⟨y, es, d, ⟨⟩, rfl⟩
    simp only [exec, execHuntMarker, execHuntSkip, execHdrByte, execHdrLast, execHdrAbort, execFrmByte, execFrmAbort, execRdEos, execRdErr, execDeliver, execDeliverRet, execTdClose, execTdSentinel, execTdSentinelRet, execTdRelease, execAcceptHeader, execAbandon, execFatal]
    refine (State.fire_next_iff ..).mpr ⟨?_, rfl⟩
    simp_all [Slot.inFsm, Slot.inTd, Slot.reading, State.slot, State.emit, State.bump, State.closeDev]

end Sys2Proof.Machine
end

