-- ==== Sys2Proof/Laws/PerInstr.lean ====
section
/-!
SUPPORT. One lemma per instruction. The family `RoundTrip`: an instruction the event map can select (30_encoding.md R114) comes
back from its own encoding, in every sequencer whose state columns admit it, with every operand that is well-formed.
-/

namespace Sys2Proof.Laws.RoundTrip

/-- Decoding the encoding of a well-formed instruction, in a state that admits it, gives the instruction back. -/
def Statement (i : Instr) : Prop :=
  ∀ (m : Byte) (q : Sequencer) (k : Nat), i.wf m = true → q.admits i = true → i.readSlot = some k →
    ∃ r, encode m i = some r ∧ eventOf m q k r = .ok i

theorem huntMarker (k : Nat) : Statement (.huntMarker k) := by
  intro m q j hw ha hk
  obtain rfl : k = j := by simpa [Instr.readSlot] using hk
  simp_all [Sequencer.admits, Instr.wf, encode, eventOf]

theorem huntSkip (k : Nat) (b : Byte) : Statement (.huntSkip k b) := by
  intro m q j hw ha hk
  obtain rfl : k = j := by simpa [Instr.readSlot] using hk
  simp_all [Sequencer.admits, Instr.wf, encode, eventOf]

theorem hdrByte (k : Nat) (b : Byte) : Statement (.hdrByte k b) := by
  intro m q j hw ha hk
  obtain rfl : k = j := by simpa [Instr.readSlot] using hk
  simp_all [Sequencer.admits, Instr.wf, encode, eventOf]

theorem hdrLast (k : Nat) (b : Byte) : Statement (.hdrLast k b) := by
  intro m q j hw ha hk
  obtain rfl : k = j := by simpa [Instr.readSlot] using hk
  simp_all [Sequencer.admits, Instr.wf, encode, eventOf]

theorem hdrAbort (k : Nat) (b : Byte) : Statement (.hdrAbort k b) := by
  intro m q j hw ha hk
  obtain rfl : k = j := by simpa [Instr.readSlot] using hk
  simp_all [Sequencer.admits, Instr.wf, encode, eventOf]

theorem frmByte (k : Nat) (b : Byte) : Statement (.frmByte k b) := by
  intro m q j hw ha hk
  obtain rfl : k = j := by simpa [Instr.readSlot] using hk
  simp_all [Sequencer.admits, Instr.wf, encode, eventOf]

theorem frmAbort (k : Nat) (b : Byte) : Statement (.frmAbort k b) := by
  intro m q j hw ha hk
  obtain rfl : k = j := by simpa [Instr.readSlot] using hk
  simp_all [Sequencer.admits, Instr.wf, encode, eventOf]

theorem frmLast (k : Nat) (b : Byte) : Statement (.frmLast k b) := by
  intro m q j hw ha hk
  obtain rfl : k = j := by simpa [Instr.readSlot] using hk
  simp_all [Sequencer.admits, Instr.wf, encode, eventOf]

theorem rdEos (k : Nat) : Statement (.rdEos k) := by
  intro m q j hw ha hk
  obtain rfl : k = j := by simpa [Instr.readSlot] using hk
  simp_all [Sequencer.admits, Instr.wf, encode, eventOf]

theorem rdErr (k : Nat) (e : ErrCode) : Statement (.rdErr k e) := by
  intro m q j hw ha hk
  obtain rfl : k = j := by simpa [Instr.readSlot] using hk
  simp_all [Sequencer.admits, Instr.wf, encode, eventOf]

theorem deliver (k : Nat) : Statement (.deliver k) := fun _ _ _ _ _ h => nomatch h

theorem deliverRet (k : Nat) : Statement (.deliverRet k) := fun _ _ _ _ _ h => nomatch h

theorem register : Statement (.register) := fun _ _ _ _ _ h => nomatch h

theorem start (path : DevPath) (raw : Bool) (handler : Option HandlerRef) (arg : HandlerArg) : Statement (.start path raw handler arg) := fun _ _ _ _ _ h => nomatch h

theorem join (handle : Nat) : Statement (.join handle) := fun _ _ _ _ _ h => nomatch h

theorem tdRestore (k : Nat) : Statement (.tdRestore k) := fun _ _ _ _ _ h => nomatch h

theorem tdClose (k : Nat) : Statement (.tdClose k) := fun _ _ _ _ _ h => nomatch h

theorem tdSentinel (k : Nat) : Statement (.tdSentinel k) := fun _ _ _ _ _ h => nomatch h

theorem tdSentinelRet (k : Nat) : Statement (.tdSentinelRet k) := fun _ _ _ _ _ h => nomatch h

theorem tdRelease (k : Nat) : Statement (.tdRelease k) := fun _ _ _ _ _ h => nomatch h

theorem valid (s : List Byte) : Statement (.valid s) := fun _ _ _ _ _ h => nomatch h

theorem ck (s : List Byte) : Statement (.ck s) := fun _ _ _ _ _ h => nomatch h

theorem headerDecode (h : Vector Byte 9) : Statement (.headerDecode h) := fun _ _ _ _ _ h => nomatch h

theorem frameDecode (f : Vector Byte 6) : Statement (.frameDecode f) := fun _ _ _ _ _ h => nomatch h

theorem acceptHeader (k : Nat) (x : Byte) : Statement (.acceptHeader k x) := fun _ _ _ _ _ h => nomatch h

theorem acceptFrame (k : Nat) (x : Byte) : Statement (.acceptFrame k x) := fun _ _ _ _ _ h => nomatch h

theorem abandon (k : Nat) (x : AbandonCause) : Statement (.abandon k x) := fun _ _ _ _ _ h => nomatch h

theorem fatal (k : Nat) (x : ExitValue) : Statement (.fatal k x) := fun _ _ _ _ _ h => nomatch h

end Sys2Proof.Laws.RoundTrip
end

