-- ==== Sys2Proof/Laws/Step.lean ====
section
/-!
SUPPORT. What a fetch and a step can do, said once: `InstFetch` lists what an instance's turn selects and in which state, and
`step_inst` gives the next state of such a turn as a move of that slot.
-/

namespace Sys2Proof.Machine

/-- The slot of an instance with its stream shortened by the read result taken (R71, R204). -/
abbrev Slot.afterRead (x : Slot) (rest : List RdResult) : Slot := { x with stream := rest }

/-- What a turn of the instance in slot `k` selects from slot `x`: the instruction, and the slot it runs on. `returns` says
that the environment lets a handler call return. -/
inductive InstFetch (m : Byte) (k : Nat) (x : Slot) (returns : Bool) : Instr → Slot → Prop
  | read (r : RdResult) (rest : List RdResult) (i : Instr) (h1 : x.life = .running) (h2 : x.fsm ≠ .delivering)
      (h3 : x.stream = r :: rest) (h4 : eventOf m x.sequencer k r = .ok i) : InstFetch m k x returns i (x.afterRead rest)
  | deliver (h1 : x.life = .running) (h2 : x.fsm = .delivering) (h3 : x.call = none) :
      InstFetch m k x returns (.deliver k) x
  | deliverRet (h1 : x.life = .running) (h2 : x.fsm = .delivering) (h3 : x.call = some .packet) (h4 : returns = true)
      (h5 : x.callJoin = none) : InstFetch m k x returns (.deliverRet k) x
  | tdRestore (h1 : x.life = .teardown) (h2 : x.td = .restore) : InstFetch m k x returns (.tdRestore k) x
  | tdClose (h1 : x.life = .teardown) (h2 : x.td = .close) : InstFetch m k x returns (.tdClose k) x
  | tdSentinel (h1 : x.life = .teardown) (h2 : x.td = .sentinel) (h3 : x.call = none) (h4 : x.sentinelDone = false) :
      InstFetch m k x returns (.tdSentinel k) x
  | tdSentinelRet (h1 : x.life = .teardown) (h2 : x.td = .sentinel) (h3 : x.call = some .sentinel)
      (h4 : returns = true) (h5 : x.callJoin = none) : InstFetch m k x returns (.tdSentinelRet k) x
  | tdRelease (h1 : x.life = .teardown) (h2 : x.td = .release) : InstFetch m k x returns (.tdRelease k) x

/-- The event map gives an event of the slot it is asked for. -/
theorem eventOf_instance {m : Byte} {q : Sequencer} {k : Nat} {r : RdResult} {i : Instr} (h : eventOf m q k r = .ok i) :
    instanceOf i = some k := by
  unfold eventOf at h
  repeat' split at h
  all_goals first
    | (simp only [Except.ok.injEq] at h; subst h; rfl)
    | simp at h

/-- A turn that selects an instruction selects it as `InstFetch` says, and has changed only the slot's stream. -/
theorem fetchInst_run {k : Nat} {t u : State} {i : Instr} (h : fetchInst k t = .run i u) :
    ∃ x, InstFetch t.params.marker k (t.slot k) t.ans.handlerReturns i x ∧ (u = t.setSlot k x ∨ (u = t ∧ x = t.slot k)) := by
  unfold fetchInst at h
  cases hl : (t.slot k).life <;> simp only [hl, reduceCtorEq] at h
  · cases hf : (t.slot k).fsm <;> simp only [hf] at h
    case delivering =>
      cases hc : (t.slot k).call with
      | none =>
        simp only [hc, Fetched.run.injEq] at h
        obtain ⟨rfl, rfl⟩ := h
        exact ⟨_, .deliver hl hf hc, .inr ⟨rfl, rfl⟩⟩
      | some c =>
        cases c <;> simp only [hc, reduceCtorEq] at h
        split at h
        · next hr =>
          simp only [Fetched.run.injEq] at h
          obtain ⟨rfl, rfl⟩ := h
          exact ⟨_, .deliverRet hl hf hc ((Slot.callReturns_iff ..).mp hr).1 ((Slot.callReturns_iff ..).mp hr).2, .inr ⟨rfl, rfl⟩⟩
        · simp at h
    all_goals
      unfold fetchRead at h
      cases hs : (t.slot k).stream with
      | nil => simp [hs] at h
      | cons r rest =>
        simp only [hs] at h
        split at h
        · next he =>
          simp only [Fetched.run.injEq] at h
          obtain ⟨rfl, rfl⟩ := h
          exact ⟨_, .read r rest _ hl (by simp [hf]) hs he, .inl rfl⟩
        · simp at h
  · cases ht : (t.slot k).td <;> simp only [ht] at h
    case sentinel =>
      cases hc : (t.slot k).call with
      | none =>
        simp only [hc] at h
        split at h
        · simp at h
        · next hd =>
          simp only [Fetched.run.injEq] at h
          obtain ⟨rfl, rfl⟩ := h
          exact ⟨_, .tdSentinel hl ht hc (by simpa using hd), .inr ⟨rfl, rfl⟩⟩
      | some c =>
        cases c <;> simp only [hc, reduceCtorEq] at h
        split at h
        · next hr =>
          simp only [Fetched.run.injEq] at h
          obtain ⟨rfl, rfl⟩ := h
          exact ⟨_, .tdSentinelRet hl ht hc ((Slot.callReturns_iff ..).mp hr).1 ((Slot.callReturns_iff ..).mp hr).2, .inr ⟨rfl, rfl⟩⟩
        · simp at h
    all_goals
      simp only [Fetched.run.injEq] at h
      obtain ⟨rfl, rfl⟩ := h
    · exact ⟨_, .tdRestore hl ht, .inr ⟨rfl, rfl⟩⟩
    · exact ⟨_, .tdClose hl ht, .inr ⟨rfl, rfl⟩⟩
    · exact ⟨_, .tdRelease hl ht, .inr ⟨rfl, rfl⟩⟩

/-- A read that selects nothing changes nothing. -/
theorem fetchRead_idle {k : Nat} {t u : State} (h : fetchRead k t = .idle u) : u = t := by
  unfold fetchRead at h
  split at h
  · simpa using h.symm
  · split at h
    · simp at h
    · simpa using h.symm

/-- A turn that selects nothing changes nothing. -/
theorem fetchInst_idle {k : Nat} {t u : State} (h : fetchInst k t = .idle u) : u = t := by
  unfold fetchInst at h
  cases hl : (t.slot k).life <;> simp only [hl] at h
  case free => simpa using h.symm
  case stopped => simpa using h.symm
  case running =>
    cases hf : (t.slot k).fsm <;> simp only [hf] at h
    case delivering =>
      repeat' split at h
      all_goals simpa using h.symm
    all_goals exact fetchRead_idle h
  case teardown =>
    repeat' split at h
    all_goals simpa using h.symm

/-- The instruction a turn of slot `k` selects is one of slot `k`. -/
theorem InstFetch.instance_eq {m : Byte} {k : Nat} {x y : Slot} {b : Bool} {i : Instr} (h : InstFetch m k x b i y) :
    instanceOf i = some k := by
  cases h
  case read h => exact eventOf_instance h
  all_goals rfl

/-- Writing a slot twice is writing it once. -/
theorem setSlotAt_setSlotAt (xs : List Slot) (k : Nat) (x y : Slot) :
    setSlotAt (setSlotAt xs k x) k y = setSlotAt xs k y := by
  induction xs generalizing k with
  | nil =>
    induction k with
    | zero => rfl
    | succ k ih => simp only [setSlotAt, ih]
  | cons z zs ih =>
    cases k with
    | zero => rfl
    | succ k => simp only [setSlotAt, ih]

/-- The next states of a turn of the instance in slot `k`: the turn passes, or the slot makes a move. -/
theorem step_inst {s t : State} {k : Nat} {a : Answers} {rest : List Turn} (hin : s.inputs = .inst k a :: rest)
    (h : step s = .next t) :
    t = { s with inputs := rest, ans := a } ∨
    ∃ i x y es d, InstFetch s.params.marker k (s.slot k) a.handlerReturns i x ∧ SlotMove s.params a s.draw k x i y es d ∧
      t = { s with inputs := rest, ans := a }.moved k y es d := by
  unfold step fetch at h
  simp only [hin] at h
  split at h
  · next i u hf =>
    obtain ⟨x, hx, hu⟩ := fetchInst_run hf
    obtain ⟨y, es, d, hm, rfl⟩ := (exec_instance_iff i u t k hx.instance_eq).mp h
    refine .inr ⟨i, x, y, es, d, hx, ?_⟩
    obtain rfl | ⟨rfl, rfl⟩ := hu
    · refine ⟨by simpa using hm, ?_⟩
      simp [State.moved, State.setSlot, setSlotAt_setSlotAt]
    · exact ⟨hm, rfl⟩
  · next u hf =>
    left
    simp only [Host.Outcome.next.injEq] at h
    rw [← h]
    exact fetchInst_idle hf

/-- The converse of `step_inst`: what a turn selects and the slot's move make the step. -/
theorem step_of_move {s : State} {k : Nat} {a : Answers} {rest : List Turn} {i : Instr} {x y : Slot} {es : List Effect}
    {d : Nat} (hin : s.inputs = .inst k a :: rest)
    (hf : InstFetch s.params.marker k (s.slot k) a.handlerReturns i x) (hm : SlotMove s.params a s.draw k x i y es d) :
    step s = .next ({ s with inputs := rest, ans := a }.moved k y es d) := by
  have key : ∃ u : State, fetchInst k { s with inputs := rest, ans := a } = .run i u ∧
      (u = { s with inputs := rest, ans := a }.setSlot k x ∨ (u = { s with inputs := rest, ans := a } ∧ x = s.slot k)) := by
    have hs : ({ s with inputs := rest, ans := a } : State).slot k = s.slot k := rfl
    cases hf
    case read r rs h1 h2 h3 h4 =>
      refine ⟨_, ?_, .inl rfl⟩
      have e : fetchInst k { s with inputs := rest, ans := a } = fetchRead k { s with inputs := rest, ans := a } := by
        unfold fetchInst
        simp only [hs, h1]
      rw [e]
      unfold fetchRead
      simp only [hs, h3, h4]
    all_goals
      refine ⟨_, ?_, .inr ⟨rfl, rfl⟩⟩
      unfold fetchInst
      simp_all [Slot.callReturns]
  obtain ⟨u, hu, hux⟩ := key
  unfold step fetch
  simp only [hin, hu]
  rw [exec_instance_iff i u _ k hf.instance_eq]
  obtain rfl | ⟨rfl, rfl⟩ := hux
  · refine ⟨y, es, d, by simpa using hm, ?_⟩
    simp [State.moved, State.setSlot, setSlotAt_setSlotAt]
  · exact ⟨y, es, d, hm, rfl⟩

/-! ### The host operations -/

/-- Effects that are no handler call. -/
abbrev Quiet (es : List Effect) : Prop := ∀ e ∈ es, e.callOf = none

/-- The slot START works on once its parameters are latched: saved configuration `q`, changed or not. -/
def Slot.prepared (c : InstCfg) (dev : DevHandle) (q : DevConfig) (changed : Bool) (x : Slot) : Slot :=
  { x.latch c dev with savedCfg := q, cfgChanged := changed }

/-- The next states of `State.cleanup`: the slot is freed and only quiet effects are made. -/
theorem State.cleanup_eq (s : State) (k : Nat) (x : Slot) (opened : Bool) (r : StartReason) :
    ∃ es, Quiet es ∧ s.cleanup k x opened r =
      { s with slots := setSlotAt s.slots k { x with cfgChanged := false, devOpen := false, life := .free },
               effects := es ++ s.effects } := by
  refine ⟨.startResult (.fail r) :: ((if opened then [.devClose x.dev s.ans.closeOk] else []) ++
    (if x.cfgChanged then [.devSetCfg x.dev x.savedCfg s.ans.restoreOk] else [])), ?_, ?_⟩
  · intro e he
    simp only [List.mem_cons, List.mem_append] at he
    rcases he with rfl | he | he
    · rfl
    · split at he <;> simp_all [Effect.callOf]
    · split at he <;> simp_all [Effect.callOf]
  · cases opened <;> cases h : x.cfgChanged <;>
      simp [State.cleanup, State.restoreCfg, State.closeDev, State.startFails, State.setSlot, State.emit, h]

/-- The next states of START: nothing but quiet effects; or the allocated slot prepared and freed; or it launched. -/
theorem execStart_next {path : DevPath} {raw : Bool} {h : Option HandlerRef} {arg : HandlerArg} {s t : State}
    (he : exec (.start path raw h arg) s = .next t) :
    ∃ es, Quiet es ∧ (t = { s with effects := es ++ s.effects } ∨
      ∃ k c dev q r, s.allocSlot = some k ∧ (r = true → c.raw = true) ∧
        (t = { s with slots := setSlotAt s.slots k { (s.slot k).prepared c dev q r with
                        cfgChanged := false, devOpen := false, life := .free }, effects := es ++ s.effects } ∨
         t = { s with slots := setSlotAt s.slots k (((s.slot k).prepared c dev q r).launch s.nextHandle s.ans.stream),
                      nextHandle := s.nextHandle + 1, effects := es ++ s.effects })) := by
  have launch : ∀ (u : State) (k : Nat) (c : InstCfg) (dev : DevHandle) (q : DevConfig) (r opened : Bool) (es0 : List Effect),
      u = { s with effects := es0 ++ s.effects } → Quiet es0 → s.allocSlot = some k → (r = true → c.raw = true) →
      u.launch k ((s.slot k).prepared c dev q r) opened = .next t →
      ∃ es, Quiet es ∧ ∃ k c dev q r, s.allocSlot = some k ∧ (r = true → c.raw = true) ∧
        (t = { s with slots := setSlotAt s.slots k { (s.slot k).prepared c dev q r with
                        cfgChanged := false, devOpen := false, life := .free }, effects := es ++ s.effects } ∨
         t = { s with slots := setSlotAt s.slots k (((s.slot k).prepared c dev q r).launch s.nextHandle s.ans.stream),
                      nextHandle := s.nextHandle + 1, effects := es ++ s.effects }) := by
    intro u k c dev q r opened es0 hu h0 hk hr hl
    unfold State.launch at hl
    split at hl
    · obtain ⟨es, hes, hc⟩ := u.cleanup_eq k ((s.slot k).prepared c dev q r) opened .launchFailed
      rw [hc, Host.Outcome.next.injEq] at hl
      refine ⟨es ++ es0, fun e he => ?_, k, c, dev, q, r, hk, hr, .inl ?_⟩
      · exact (List.mem_append.mp he).elim (hes e) (h0 e)
      · rw [← hl, hu]; simp
    · split at hl
      · simp at hl
      · rw [Host.Outcome.next.injEq] at hl
        refine ⟨es0, h0, k, c, dev, q, r, hk, hr, .inr ?_⟩
        rw [← hl, hu]; rfl
  have startOn : ∀ (u : State) (k : Nat) (dev : DevHandle) (opened : Bool) (es0 : List Effect),
      u = { s with effects := es0 ++ s.effects } → Quiet es0 → s.allocSlot = some k →
      u.startOn k path raw h arg dev opened = .next t →
      ∃ es, Quiet es ∧ ∃ k c dev q r, s.allocSlot = some k ∧ (r = true → c.raw = true) ∧
        (t = { s with slots := setSlotAt s.slots k { (s.slot k).prepared c dev q r with
                        cfgChanged := false, devOpen := false, life := .free }, effects := es ++ s.effects } ∨
         t = { s with slots := setSlotAt s.slots k (((s.slot k).prepared c dev q r).launch s.nextHandle s.ans.stream),
                      nextHandle := s.nextHandle + 1, effects := es ++ s.effects }) := by
    intro u k dev opened es0 hu h0 hk hl
    unfold State.startOn at hl
    cases h with
    | none => simp at hl
    | some hd =>
      have hslot : u.slot k = s.slot k := by rw [hu]; rfl
      simp only [hslot] at hl
      unfold State.configure at hl
      split at hl
      · exact launch u k ⟨path, raw, hd, arg⟩ dev (s.slot k).savedCfg false opened es0 hu h0 hk (by simp) hl
      · next hraw =>
        split at hl
        · obtain ⟨es, hes, hc⟩ := (u.emit (.devQueryCfg dev none)).cleanup_eq k
            ((s.slot k).prepared ⟨path, raw, hd, arg⟩ dev (s.slot k).savedCfg false) opened .configQueryFailed
          rw [Host.Outcome.next.injEq] at hl
          refine ⟨es ++ .devQueryCfg dev none :: es0, fun e he => ?_, k, ⟨path, raw, hd, arg⟩, dev, (s.slot k).savedCfg, false,
            hk, by simp, .inl ?_⟩
          · rcases List.mem_append.mp he with he | he
            · exact hes e he
            · rcases List.mem_cons.mp he with rfl | he
              · rfl
              · exact h0 e he
          · refine hl.symm.trans (hc.trans ?_)
            rw [hu]; simp [State.emit]
        · next q _ =>
          have h1 : ∀ e ∈ (Effect.devSetRaw dev u.params.rawBaud u.ans.setRawOk :: .devQueryCfg dev (some q) :: es0),
              e.callOf = none := by
            intro e he
            rcases List.mem_cons.mp he with rfl | he
            · rfl
            · rcases List.mem_cons.mp he with rfl | he
              · rfl
              · exact h0 e he
          simp only [] at hl
          split at hl
          · obtain ⟨es, hes, hc⟩ := ((u.emit (.devQueryCfg dev (some q))).emit
              (.devSetRaw dev u.params.rawBaud u.ans.setRawOk)).cleanup_eq k
              ((s.slot k).prepared ⟨path, raw, hd, arg⟩ dev q false) opened .configSetFailed
            rw [Host.Outcome.next.injEq] at hl
            refine ⟨es ++ (Effect.devSetRaw dev u.params.rawBaud u.ans.setRawOk :: .devQueryCfg dev (some q) :: es0),
              fun e he => (List.mem_append.mp he).elim (hes e) (h1 e), k, ⟨path, raw, hd, arg⟩, dev, q, false, hk, by simp, .inl ?_⟩
            refine hl.symm.trans (hc.trans ?_)
            rw [hu]; simp [State.emit]
          · refine launch _ k ⟨path, raw, hd, arg⟩ dev q true opened _ ?_ h1 hk ?_ hl
            · rw [hu]; rfl
            · intro _
              simpa [Slot.latch] using hraw
  change execStart path raw h arg s = _ at he
  unfold execStart at he
  split at he
  · rw [Host.Outcome.next.injEq] at he
    exact ⟨[.startResult (.fail .notRegistered)], by simp [Quiet, Effect.callOf], .inl he.symm⟩
  · split at he
    · rw [Host.Outcome.next.injEq] at he
      exact ⟨[.startResult (.fail .allocFailed)], by simp [Quiet, Effect.callOf], .inl he.symm⟩
    · next k hk =>
      split at he
      · obtain ⟨es, hes, H⟩ := startOn s k _ _ [] rfl (by simp [Quiet]) hk he
        exact ⟨es, hes, .inr H⟩
      · split at he
        · rw [Host.Outcome.next.injEq] at he
          refine ⟨[.startResult (.fail .openFailed), .devOpen path s.ans.openAns], ?_, .inl he.symm⟩
          simp [Quiet, Effect.callOf]
        · obtain ⟨es, hes, H⟩ := startOn _ k _ _ [.devOpen path s.ans.openAns] rfl (by simp [Quiet, Effect.callOf]) hk he
          exact ⟨es, hes, .inr H⟩

/-- The next states of JOIN: the exit value is answered and the slot freed, or the JOIN waits. -/
theorem execJoin_next {h : Nat} {s t : State} (he : exec (.join h) s = .next t) :
    ∃ k, s.findHandle h = some k ∧
      (s.slot k).okPending = false ∧ (s.slot k).joinWait = false ∧
      (((s.slot k).life = .stopped ∧
          t = (s.setSlot k { s.slot k with life := .free }).emit (.joinResult h (s.slot k).exit)) ∨
       ((s.slot k).life ≠ .stopped ∧ t = s.setSlot k { s.slot k with joinWait := true })) := by
  change execJoin h s = _ at he
  unfold execJoin at he
  split at he
  · simp at he
  · next k hk =>
    simp only [] at he
    split at he
    · simp at he
    · next hw =>
      simp only [Bool.or_eq_true, not_or, Bool.not_eq_true] at hw
      refine ⟨k, hk, hw.1, hw.2, ?_⟩
      split at he
      · next hl => exact .inl ⟨hl, (Host.Outcome.next.inj he).symm⟩
      · next hl => exact .inr ⟨hl, (Host.Outcome.next.inj he).symm⟩

/-- The next states of a step, by the turn it takes. -/
theorem step_cases {s t : State} (h : step s = .next t) :
    (s.inputs = [] ∧ t = s) ∨
    (∃ rest, s.inputs = .hardwareReset :: rest ∧ t = { s with inputs := rest }.hardwareReset) ∨
    (∃ i a rest, s.inputs = .op i a :: rest ∧
      (t = { s with inputs := rest, ans := a } ∨
        (fromOutside i = true ∧ exec i { s with inputs := rest, ans := a } = .next t))) ∨
    (∃ hd rest, s.inputs = .startReturns hd :: rest ∧ t = { s with inputs := rest }.startReturns hd) ∨
    (∃ hd rest, s.inputs = .wake hd :: rest ∧
      (t = { s with inputs := rest } ∨
        ∃ k, s.findHandle hd = some k ∧ (s.slot k).life = .stopped ∧ (s.slot k).joinWait = true ∧
          exec (.join hd) (({ s with inputs := rest }.setSlot k { s.slot k with joinWait := false }).resumeCalls hd) =
            .next t)) ∨
    (∃ k hd rest, s.inputs = .handlerJoin k hd :: rest ∧
      (t = { s with inputs := rest } ∨
        ((s.slot k).call ≠ none ∧ (s.slot k).callJoin = none ∧
          ((s.joinWaits hd = true ∧ exec (.join hd) ({ s with inputs := rest }.holdCall k hd) = .next t) ∨
           (s.joinWaits hd = false ∧ exec (.join hd) { s with inputs := rest } = .next t))))) ∨
    (∃ k a rest, s.inputs = .inst k a :: rest) := by
  unfold step fetch at h
  cases hin : s.inputs with
  | nil => exact .inl ⟨rfl, by simpa [hin] using h.symm⟩
  | cons turn rest =>
    cases turn with
    | op i a =>
      right; right; left
      refine ⟨i, a, rest, rfl, ?_⟩
      simp only [hin] at h
      cases hf : fromOutside i <;> simp only [hf, if_true, Bool.false_eq_true, if_false] at h
      · exact .inl (Host.Outcome.next.inj h).symm
      · exact .inr ⟨rfl, h⟩
    | startReturns hd =>
      right; right; right; left
      refine ⟨hd, rest, rfl, ?_⟩
      simpa [hin] using h.symm
    | handlerJoin k hd =>
      right; right; right; right; right; left
      refine ⟨k, hd, rest, rfl, ?_⟩
      simp only [hin, fetchHandlerJoin] at h
      split at h
      · next hf =>
        split at hf
        · next hc =>
          obtain ⟨rfl, rfl⟩ := Fetched.run.inj hf
          refine .inr ⟨hc.1, hc.2, ?_⟩
          cases hw : s.joinWaits hd
          · exact .inr ⟨rfl, by rwa [show ({ s with inputs := rest } : State).joinWaits hd = false from hw, if_neg (by decide)] at h⟩
          · exact .inl ⟨rfl, by rwa [show ({ s with inputs := rest } : State).joinWaits hd = true from hw, if_pos rfl] at h⟩
        · simp at hf
      · next hf =>
        refine .inl ((Host.Outcome.next.inj h).symm.trans ?_)
        split at hf
        · simp at hf
        · exact (Fetched.idle.inj hf).symm
    | wake hd =>
      right; right; right; right; left
      refine ⟨hd, rest, rfl, ?_⟩
      simp only [hin, fetchWake] at h
      split at h
      · next hf =>
        split at hf
        · simp at hf
        · next k hk =>
          split at hf
          · next hc =>
            obtain ⟨rfl, rfl⟩ := Fetched.run.inj hf
            exact .inr ⟨k, hk, hc.1, hc.2, h⟩
          · simp at hf
      · next hf =>
        refine .inl ((Host.Outcome.next.inj h).symm.trans ?_)
        split at hf
        · exact (Fetched.idle.inj hf).symm
        · split at hf
          · simp at hf
          · exact (Fetched.idle.inj hf).symm
    | inst k a => exact .inr (.inr (.inr (.inr (.inr (.inr ⟨k, a, rest, rfl⟩)))))
    | hardwareReset =>
      right; left
      refine ⟨rest, rfl, ?_⟩
      simpa [hin] using h.symm

/-! ### One slot in a step -/

/-- Slot `y` is slot `x` but for what waits on it: START's result, a JOIN, the handler's JOIN. -/
abbrev Slot.waitsOnly (x y : Slot) : Prop :=
  y = { x with okPending := y.okPending, joinWait := y.joinWait, callJoin := y.callJoin }

theorem Slot.waitsOnly_of_eq {x y : Slot} (h : y = x) : x.waitsOnly y := by subst h; rfl

theorem Slot.waitsOnly_trans {x y z : Slot} (h1 : x.waitsOnly y) (h2 : y.waitsOnly z) : x.waitsOnly z := by
  rw [Slot.waitsOnly, h2, h1]

theorem Slot.resumeCall_waitsOnly (h : Nat) (x : Slot) : x.waitsOnly (x.resumeCall h) := by
  unfold Slot.resumeCall; split <;> rfl

/-- Writing a slot that differs only in what waits on it changes no more of any slot. -/
theorem State.setSlot_waitsOnly (s : State) (k : Nat) (x : Slot) (h : (s.slot k).waitsOnly x) (j : Nat) :
    (s.slot j).waitsOnly ((s.setSlot k x).slot j) := by
  rw [State.setSlot_slot]
  split
  · next e => subst e; exact h
  · rfl

/-- All a JOIN that goes on can do to a slot: free it where it is STOPPED, or change what waits on it. -/
theorem execJoin_slot {h : Nat} {s t : State} (he : exec (.join h) s = .next t) (j : Nat) :
    ((s.slot j).life = .stopped ∧ t.slot j = { s.slot j with life := .free }) ∨ (s.slot j).waitsOnly (t.slot j) := by
  obtain ⟨k, -, -, -, ⟨hl, rfl⟩ | ⟨hl, rfl⟩⟩ := execJoin_next he
  all_goals
    by_cases e : j = k
    · subst e; simp [Slot.waitsOnly, hl]
    · simp [Slot.waitsOnly, e]

/-- All a step can do to slot `j`: hardware reset; a START that allocates it; a JOIN that frees it; its own move; or nothing but
what waits on it. -/
theorem step_slot {s t : State} (h : step s = .next t) (j : Nat) :
    (∃ rest, s.inputs = .hardwareReset :: rest ∧ t.slot j = Slot.reset) ∨
    ((s.slot j).life = .free ∧ ∃ c dev q r n str, (r = true → c.raw = true) ∧
      (t.slot j = { (s.slot j).prepared c dev q r with cfgChanged := false, devOpen := false, life := .free } ∨
       t.slot j = ((s.slot j).prepared c dev q r).launch n str)) ∨
    ((s.slot j).life = .stopped ∧ ∃ y, (s.slot j).waitsOnly y ∧ t.slot j = { y with life := .free }) ∨
    (∃ a rest i x es d, s.inputs = .inst j a :: rest ∧ InstFetch s.params.marker j (s.slot j) a.handlerReturns i x ∧
      SlotMove s.params a s.draw j x i (t.slot j) es d) ∨
    (s.slot j).waitsOnly (t.slot j) := by
  have join : ∀ (u : State) (hd : Nat), (s.slot j).waitsOnly (u.slot j) → exec (.join hd) u = .next t →
      ((s.slot j).life = .stopped ∧ ∃ y, (s.slot j).waitsOnly y ∧ t.slot j = { y with life := .free }) ∨
      (s.slot j).waitsOnly (t.slot j) := by
    intro u hd hu he
    have hl : (u.slot j).life = (s.slot j).life := by rw [hu]
    rcases execJoin_slot he j with ⟨h1, h2⟩ | h1
    · exact .inl ⟨hl ▸ h1, _, hu, h2⟩
    · exact .inr (Slot.waitsOnly_trans hu h1)
  rcases step_cases h with ⟨-, rfl⟩ | ⟨rest, hin, rfl⟩ | ⟨i, a, rest, hin, rfl | ⟨ho, he⟩⟩ | ⟨hd, rest, hin, rfl⟩ |
    ⟨hd, rest, hin, rfl | ⟨kw, hk, hl, hjw, he⟩⟩ | ⟨k, hd, rest, hin, rfl | ⟨hc, hcj, ⟨-, he⟩ | ⟨-, he⟩⟩⟩ | ⟨k, a, rest, hin⟩
  · exact .inr (.inr (.inr (.inr rfl)))
  · exact .inl ⟨rest, hin, rfl⟩
  · exact .inr (.inr (.inr (.inr rfl)))
  · clear h
    cases i <;> simp only [fromOutside, reduceCtorEq] at ho
    case start =>
      obtain ⟨es, -, rfl | ⟨k, c, dev, q, r, hk, hr, H⟩⟩ := execStart_next he
      · exact .inr (.inr (.inr (.inr rfl)))
      · have hf := (State.allocSlot_some _ k hk).1
        by_cases e : j = k
        · subst e
          refine .inr (.inl ⟨hf, c, dev, q, r, s.nextHandle, a.stream, hr, ?_⟩)
          rcases H with rfl | rfl
          · exact .inl (by simp [State.slot, slotAt_setSlotAt])
          · exact .inr (by simp [State.slot, slotAt_setSlotAt])
        · refine .inr (.inr (.inr (.inr (Slot.waitsOnly_of_eq ?_))))
          rcases H with rfl | rfl <;> simp [State.slot, slotAt_setSlotAt, e]
    case join => exact .inr (.inr ((join { s with inputs := rest, ans := a } _ rfl he).imp_right .inr))
    case valid =>
      change execValid _ _ = _ at he
      unfold execValid at he
      split at he <;> cases he <;> exact .inr (.inr (.inr (.inr rfl)))
    all_goals cases he; exact .inr (.inr (.inr (.inr rfl)))
  · refine .inr (.inr (.inr (.inr ?_)))
    rcases ({ s with inputs := rest } : State).startReturns_cases hd with e | ⟨k, -, -, e⟩
    · rw [e]; rfl
    · rw [e]; exact ({ s with inputs := rest } : State).setSlot_waitsOnly k _ rfl j
  · exact .inr (.inr (.inr (.inr rfl)))
  · refine .inr (.inr ((join _ _ ?_ he).imp_right .inr))
    rw [State.resumeCalls_slot]
    exact Slot.waitsOnly_trans (({ s with inputs := rest } : State).setSlot_waitsOnly kw _ rfl j) (Slot.resumeCall_waitsOnly hd _)
  · exact .inr (.inr (.inr (.inr rfl)))
  · exact .inr (.inr ((join _ _ (({ s with inputs := rest } : State).setSlot_waitsOnly k _ rfl j) he).imp_right .inr))
  · exact .inr (.inr ((join { s with inputs := rest } _ rfl he).imp_right .inr))
  · rcases step_inst hin h with rfl | ⟨i, x, y, es, d, hf, hm, rfl⟩
    · exact .inr (.inr (.inr (.inr rfl)))
    · by_cases e : j = k
      · subst e
        exact .inr (.inr (.inr (.inl ⟨a, rest, i, x, es, d, hin, hf, by simpa using hm⟩)))
      · refine .inr (.inr (.inr (.inr (Slot.waitsOnly_of_eq ?_))))
        rw [State.moved_slot, if_neg e]; rfl

/-! ### Runs -/

/-- A run of any machine that has a step to take and ends in a state takes that step first. -/
theorem core_run_succ (M : Host.Core) {n : Nat} {s t : M.State} (h : M.run (n + 1) s = .next t) :
    ∃ u : M.State, M.step s = .next u ∧ M.run n u = .next t := by
  rw [Host.Core.run.eq_2] at h
  split at h
  · next u hs => exact ⟨u, hs, h⟩
  · cases h
  · cases h

/-- A step that goes on and a run from there are a run, on any machine. -/
theorem core_run_of_step (M : Host.Core) {n : Nat} {s u t : M.State} (hs : M.step s = .next u) (h : M.run n u = .next t) :
    M.run (n + 1) s = .next t := by
  rw [Host.Core.run.eq_2, hs]
  exact h

/-- A run of this machine that has a step to take and ends in a state takes that step first. -/
theorem run_succ {n : Nat} {s t : State} (h : Sys2Proof.core.run (n + 1) s = .next t) :
    ∃ u : State, step s = .next u ∧ Sys2Proof.core.run n u = .next t := core_run_succ Sys2Proof.core h

/-- A step of this machine that goes on and a run from there are a run. -/
theorem run_of_step {n : Nat} {s u t : State} (hs : step s = .next u) (h : Sys2Proof.core.run n u = .next t) :
    Sys2Proof.core.run (n + 1) s = .next t := core_run_of_step Sys2Proof.core hs h

/-- A run of no steps stays where it is. -/
theorem run_zero {s t : State} : Sys2Proof.core.run 0 s = .next t ↔ t = s :=
  ⟨fun h => (Host.Outcome.next.inj h).symm, fun h => h ▸ rfl⟩

end Sys2Proof.Machine
end

