-- ==== Sys2Proof/Tests/Slice0.lean ====
section
/-!
SUPPORT. Tests. The expected values are those of spec/95_test_vectors.md (each test names its vector), or are worked out by hand
from the rule it names. `witness_<Obligation>` shows a concrete state and operands that meet all the hypotheses of that statement,
one for each clause or boundary.
-/

namespace Sys2Proof.Machine.Tests

/-! ### Helpers -/

/-- Parameters with `MARKER_VALUE = 0x95` (any value with the top bit set would do) and the default capacity. -/
def params0 : Params where
  markerLow := 0x15
  maxFrames := 127
  allocMayFail := false
  stdStreamPath := { id := 100 }
  stdStream := { id := 101 }
  rawBaud := { id := 102 }
  extraInstances := some 1

/-- A running instance that hunts. -/
def run0 : Slot :=
  { Slot.reset with
    life := .running, handle := 3, devOpen := true, dev := { id := 4 },
    cfg := { path := { id := 7 }, raw := false, handler := { id := 8 }, arg := { id := 9 } } }

/-- An instance at the start of teardown, its configuration changed. -/
def down0 : Slot :=
  { run0 with life := .teardown, td := .restore, cfgChanged := true, savedCfg := { id := 5 }, exit := .ioError { id := 6 },
              cfg := { run0.cfg with raw := true } }

/-- An instance that has stopped and is not joined. -/
def stop0 : Slot := { run0 with life := .stopped, devOpen := false, sentinelDone := true, exit := .ioError { id := 6 } }

/-- A state whose slot 0 is `x`. -/
def st (x : Slot) : State :=
  { State.reset with params := params0, registered := true, slots := [x], nextHandle := 4 }

/-- The same with a turn of that instance next. -/
def turn (x : Slot) (a : Answers) : State := { st x with inputs := [.inst 0 a] }

/-- A registered platform without instances. -/
def idle0 : State := { State.reset with params := params0, registered := true }

/-- The next state, if there is one, passes the check. -/
def next (r : Result) (check : State → Bool) : Bool :=
  match r with
  | .next t => check t
  | .fault _ => false
  | .refused _ => false

/-- The instruction is refused for this reason. -/
def refuses (r : Result) (x : Refusal) : Bool :=
  match r with
  | .next _ => false
  | .fault _ => false
  | .refused y => x == y

/-- The instruction faults for this reason. -/
def faults (r : Result) (x : Fault) : Bool :=
  match r with
  | .next _ => false
  | .fault y => x == y
  | .refused _ => false

/-- The header of vector S1, all but its checksum. -/
def hbufS1 : Vector Byte 9 := #v[0x34, 0x12, 0x00, 0x00, 0x01, 0x10, 0x00, 0x02, 0x00]

/-- Eight bytes of the header of S1 have been read. -/
def hdr8 : Slot := { run0 with fsm := .readingHeader, hcnt := 8, hbuf := hbufS1 }

/-- Eight bytes of the header of HD2 (no frames) have been read. -/
def hdr8Empty : Slot :=
  { run0 with fsm := .readingHeader, hcnt := 8, hbuf := #v[0x01, 0x00, 0x02, 0x00, 0x01, 0x03, 0x00, 0x00, 0x00] }

/-- The state of RD13: five bytes of the first of two frames have been read. -/
def frm0 : Slot :=
  { run0 with
    fsm := .readingFrames, fpos := 5, fbuf := #v[0x5E, 0x2D, 0x3E, 0x6F, 0x0F, 0x00], pktLive := true,
    pkt := { dst := 0x1234, src := 0, rev := 1, cmd := 0x0010, nfr := 2 } }

/-- The state of RD14: five bytes of the second of two frames have been read. -/
def frm1 : Slot :=
  { frm0 with fidx := 1, fbuf := #v[0x01, 0x02, 0x03, 0x04, 0x00, 0x00], pay := [(0, 0xDE), (1, 0xAD), (2, 0xBE), (3, 0xEF)] }

/-- The state of RD21: both frames accepted. -/
def full : Slot :=
  { frm1 with
    fsm := .delivering, fidx := 2,
    pay := [(0, 0xDE), (1, 0xAD), (2, 0xBE), (3, 0xEF), (4, 1), (5, 2), (6, 3), (7, 4)] }

/-- The answers of an environment in which everything succeeds and the device opened is 4. -/
def good : Answers := { Answers.reset with openAns := some { id := 4 }, queryAns := some { id := 5 } }

/-! ### WellFormed: one ill-formed term for each check -/

theorem test_wf_hunt_skip_of_marker : Instr.wf 0x95 (.huntSkip 0 0x95) = false := by decide
theorem test_wf_hdr_byte_high : Instr.wf 0x95 (.hdrByte 0 0x80) = false := by decide
theorem test_wf_hdr_last_high : Instr.wf 0x95 (.hdrLast 0 0xA6) = false := by decide
theorem test_wf_hdr_abort_clean : Instr.wf 0x95 (.hdrAbort 0 0x7F) = false := by decide
theorem test_wf_frm_byte_high : Instr.wf 0x95 (.frmByte 0 0x95) = false := by decide
theorem test_wf_frm_abort_clean : Instr.wf 0x95 (.frmAbort 0 0x00) = false := by decide
theorem test_wf_start_null_handler : Instr.wf 0x95 (.start { id := 0 } true none { id := 0 }) = false := by decide
theorem test_wf_valid_empty : Instr.wf 0x95 (.valid []) = false := by decide
theorem test_wf_header_decode_high :
    Instr.wf 0x95 (.headerDecode #v[0x34, 0x12, 0x00, 0x00, 0x01, 0x10, 0x00, 0x82, 0x26]) = false := by decide
theorem test_wf_frame_decode_high_map :
    Instr.wf 0x95 (.frameDecode #v[0x00, 0x00, 0x00, 0x00, 0x8F, 0x70]) = false := by decide
theorem test_wf_frame_decode_any_checksum :
    Instr.wf 0x95 (.frameDecode #v[0x01, 0x02, 0x03, 0x04, 0x00, 0xF5]) = true := by decide
theorem test_wf_accept_header_high : Instr.wf 0x95 (.acceptHeader 0 0xA6) = false := by decide

/-! ### Decoding: words written out from the spec's tables -/

/-- RD1. -/
theorem test_decode_hunt_marker : eventOf 0x95 ⟨.hunting, 0, 0⟩ 1 (.byte 0x95) = .ok (.huntMarker 1) := by decide
/-- RD3: a HIGH byte is no marker. -/
theorem test_decode_hunt_skip : eventOf 0x95 ⟨.hunting, 0, 0⟩ 1 (.byte 0x96) = .ok (.huntSkip 1 0x96) := by decide
/-- RD4 at the last offset that is not the ninth. -/
theorem test_decode_hdr_byte : eventOf 0x95 ⟨.readingHeader, 7, 0⟩ 1 (.byte 0x02) = .ok (.hdrByte 1 0x02) := by decide
/-- RD5. -/
theorem test_decode_hdr_last : eventOf 0x95 ⟨.readingHeader, 8, 0⟩ 1 (.byte 0x26) = .ok (.hdrLast 1 0x26) := by decide
/-- RD10: the checksum byte is tested too. -/
theorem test_decode_hdr_abort : eventOf 0x95 ⟨.readingHeader, 8, 0⟩ 1 (.byte 0xA6) = .ok (.hdrAbort 1 0xA6) := by decide
/-- RD11. -/
theorem test_decode_frm_byte : eventOf 0x95 ⟨.readingFrames, 8, 4⟩ 1 (.byte 0x0F) = .ok (.frmByte 1 0x0F) := by decide
/-- RD12. -/
theorem test_decode_frm_abort : eventOf 0x95 ⟨.readingFrames, 8, 2⟩ 1 (.byte 0x95) = .ok (.frmAbort 1 0x95) := by decide
/-- RD16: at frame offset 5 any byte is FRM_LAST, the marker too. -/
theorem test_decode_frm_last : eventOf 0x95 ⟨.readingFrames, 8, 5⟩ 1 (.byte 0x95) = .ok (.frmLast 1 0x95) := by decide
/-- RD18. -/
theorem test_decode_rd_eos : eventOf 0x95 ⟨.readingHeader, 5, 0⟩ 1 .eos = .ok (.rdEos 1) := by decide
/-- RD19. -/
theorem test_decode_rd_err :
    eventOf 0x95 ⟨.readingFrames, 8, 0⟩ 1 (.err { id := 5 }) = .ok (.rdErr 1 { id := 5 }) := by decide
/-- R115: no read result arrives in DELIVERING. -/
theorem test_decode_delivering :
    eventOf 0x95 ⟨.delivering, 8, 5⟩ 1 (.byte 0x95) = .error .noReadWhileDelivering := by decide

/-- The opcode table's two words, bit 7 = 0 and bit 7 = 1, in the first header position (log 24). -/
theorem test_table_word_clean : decodeTableWord 8 0x00 = some (.hdrByte 0 0x00) := by decide
theorem test_table_word_high : decodeTableWord 8 0x80 = some (.hdrAbort 0 0x80) := by decide
theorem test_fetch_word_clean :
    next (step (State.reset.withFetchWord 8 0x35)) (fun t => (t.slot 0).hcnt == 1 && (t.slot 0).hbuf[0] == 0x35) = true := by
  decide
theorem test_fetch_word_high :
    next (step (State.reset.withFetchWord 8 0x80)) (fun t => (t.slot 0).fsm == .hunting) = true := by decide

/-! ### The stream notation -/

/-- HD1: the header of S1. -/
theorem test_hdr_s1 : (hdrBytes { dst := 0x1234, src := 0, rev := 1, cmd := 0x0010, nfr := 2 }).toList =
    [0x34, 0x12, 0x00, 0x00, 0x01, 0x10, 0x00, 0x02, 0x26] := by decide
/-- HD3: the largest field values. -/
theorem test_hdr_largest : (hdrBytes { dst := 0x7F7F, src := 0x7F7F, rev := 0x7F, cmd := 0x7F7F, nfr := 1 }).toList =
    [0x7F, 0x7F, 0x7F, 0x7F, 0x7F, 0x7F, 0x7F, 0x01, 0x05] := by decide
/-- FD1. -/
theorem test_frm_fd1 : (frmBytes #v[0xDE, 0xAD, 0xBE, 0xEF]).toList = [0x5E, 0x2D, 0x3E, 0x6F, 0x0F, 0x38] := by decide
/-- FD2. -/
theorem test_frm_fd2 : (frmBytes #v[0x00, 0x7F, 0x80, 0xFF]).toList = [0x00, 0x7F, 0x00, 0x7F, 0x0C, 0x75] := by decide
/-- Program P2, packet B. -/
theorem test_pkt_p2b : pktBytes 0x95 0x0005 0x0006 0x01 0x0007 [0x80, 0x00, 0xFF, 0x7F] =
    .ok [0x95, 0x05, 0x00, 0x06, 0x00, 0x01, 0x07, 0x00, 0x01, 0x6B, 0x00, 0x00, 0x7F, 0x7F, 0x05, 0x7C] := by decide
/-- U23: a payload that is no whole number of frames is refused. -/
theorem test_pkt_refused : pktBytes 0x95 1 2 1 3 [0x80] = .error .argumentOutOfRange := by decide
/-- RS2. -/
theorem test_stream_rs2 :
    expandStream 0x95 [.mk, .mk, .hdr { dst := 1, src := 2, rev := 1, cmd := 3, nfr := 0 }, .eos] =
    .ok [.byte 0x95, .byte 0x95, .byte 0x01, .byte 0x00, .byte 0x02, .byte 0x00, .byte 0x01, .byte 0x03, .byte 0x00,
      .byte 0x00, .byte 0x78, .eos] := by decide

/-! ### Pure functions -/

/-- CK1. -/
theorem test_valid_ck1 : next (exec (.valid [0x34, 0x12, 0x00, 0x00, 0x01, 0x10, 0x00, 0x02, 0x26]) idle0)
    (fun t => t.fnResult == some (.valid true)) = true := by decide
/-- R148 states no result for no bytes: a free value, whichever it is (log 20). -/
theorem test_valid_empty : next (exec (.valid []) idle0) (fun t => t.fnResult.isSome && t.slots == idle0.slots) = true := by
  decide
/-- CK4: a sum with carries. -/
theorem test_ck_ck4 : next (exec (.ck (List.replicate 8 0x7F)) idle0) (fun t => t.fnResult == some (.ck 0x07)) = true := by
  decide
/-- CK8: the empty sum. -/
theorem test_ck_ck8 : next (exec (.ck []) idle0) (fun t => t.fnResult == some (.ck 0x7F)) = true := by decide
/-- HD1. -/
theorem test_header_decode_hd1 :
    next (exec (.headerDecode #v[0x34, 0x12, 0x00, 0x00, 0x01, 0x10, 0x00, 0x02, 0x26]) idle0) (fun t =>
      t.fnResult == some (.headerDecode (some { dst := 0x1234, src := 0, rev := 1, cmd := 0x0010, nfr := 2 }))) = true := by
  decide
/-- HD6. -/
theorem test_header_decode_hd6 :
    next (exec (.headerDecode #v[0x34, 0x12, 0x00, 0x00, 0x01, 0x10, 0x00, 0x02, 0x27]) idle0) (fun t =>
      t.fnResult == some (.headerDecode none)) = true := by decide
/-- FD4: the pinned regression. -/
theorem test_frame_decode_fd4 : next (exec (.frameDecode #v[0x41, 0x00, 0x00, 0x00, 0x00, 0x3E]) idle0)
    (fun t => t.fnResult == some (.frameDecode (some #v[0x41, 0x00, 0x00, 0x00]))) = true := by decide
/-- FD9: map bits 6..4 are ignored. -/
theorem test_frame_decode_fd9 : next (exec (.frameDecode #v[0x01, 0x02, 0x03, 0x04, 0x71, 0x04]) idle0)
    (fun t => t.fnResult == some (.frameDecode (some #v[0x81, 0x02, 0x03, 0x04]))) = true := by decide

/-! ### The reader -/

/-- RD1. -/
theorem test_hunt_marker :
    next (exec (.huntMarker 0) (st { run0 with hcnt := 5 })) (fun t => t == st { run0 with fsm := .readingHeader }) = true := by
  decide
/-- RD2. -/
theorem test_hunt_skip : next (exec (.huntSkip 0 0x41) (st run0)) (fun t => t.slots == [run0]) = true := by decide
/-- RD4. -/
theorem test_hdr_byte : next (exec (.hdrByte 0 0x34) (st { run0 with fsm := .readingHeader }))
    (fun t => (t.slot 0).hbuf[0] == 0x34 && (t.slot 0).hcnt == 1) = true := by decide
/-- RD5. -/
theorem test_hdr_last_rd5 : next (exec (.hdrLast 0 0x26) (st hdr8)) (fun t =>
    (t.slot 0).fsm == .readingFrames && (t.slot 0).pktLive && (t.slot 0).fidx == 0 && (t.slot 0).fpos == 0 &&
    (t.slot 0).pkt == { dst := 0x1234, src := 0, rev := 1, cmd := 0x0010, nfr := 2 }) = true := by decide
/-- RD7. -/
theorem test_hdr_last_rd7 : next (exec (.hdrLast 0 0x27) (st hdr8)) (fun t =>
    (t.slot 0).fsm == .hunting && !(t.slot 0).pktLive && (t.slot 0).causes == [.hdrChecksum]) = true := by decide
/-- RD8. -/
theorem test_hdr_abort : next (exec (.hdrAbort 0 0x95) (st { run0 with fsm := .readingHeader, hcnt := 3 })) (fun t =>
    (t.slot 0).fsm == .hunting && (t.slot 0).hbuf == run0.hbuf) = true := by decide
/-- RD11. -/
theorem test_frm_byte : next (exec (.frmByte 0 0x0F) (st { frm0 with fpos := 4 }))
    (fun t => (t.slot 0).fbuf[4] == 0x0F && (t.slot 0).fpos == 5) = true := by decide
/-- RD12. -/
theorem test_frm_abort : next (exec (.frmAbort 0 0x95) (st { frm1 with fpos := 2 }))
    (fun t => (t.slot 0).fsm == .hunting && !(t.slot 0).pktLive) = true := by decide
/-- RD13. -/
theorem test_frm_last_rd13 : next (exec (.frmLast 0 0x38) (st frm0)) (fun t =>
    (t.slot 0).pay == [(0, 0xDE), (1, 0xAD), (2, 0xBE), (3, 0xEF)] && (t.slot 0).fidx == 1 && (t.slot 0).fpos == 0 &&
    (t.slot 0).fsm == .readingFrames) = true := by decide
/-- RD14. -/
theorem test_frm_last_rd14 : next (exec (.frmLast 0 0x75) (st frm1)) (fun t =>
    (t.slot 0).pay == full.pay && (t.slot 0).fidx == 2 && (t.slot 0).fsm == .delivering) = true := by decide
/-- RD17. -/
theorem test_rd_eos : next (exec (.rdEos 0) (st run0)) (fun t =>
    (t.slot 0).life == .teardown && (t.slot 0).td == .restore && (t.slot 0).exit == .endOfStream) = true := by decide
/-- RD19. -/
theorem test_rd_err : next (exec (.rdErr 0 { id := 5 }) (st frm1)) (fun t =>
    (t.slot 0).life == .teardown && (t.slot 0).exit == .ioError { id := 5 } && !(t.slot 0).pktLive && t.effects == []) =
    true := by decide
/-- RD21. -/
theorem test_deliver : next (exec (.deliver 0) (st full)) (fun t => (t.slot 0).call == some .packet &&
    t.effects.length == 1 && (t.effects.head?.bind Effect.callOf) == some 3) = true := by decide
/-- RD22. -/
theorem test_deliver_ret : next (exec (.deliverRet 0) (st { full with call := some .packet }))
    (fun t => (t.slot 0).fsm == .hunting && !(t.slot 0).pktLive && (t.slot 0).call == none) = true := by decide
/-- R114: no event of another state. -/
theorem test_event_not_selected : refuses (exec (.hdrAbort 0 0x95) (st run0)) (.eventNotSelected "HDR_ABORT") = true := by decide

/-! ### Acceptance and the error actions on their own -/

/-- HD7: `MAX_FRAMES` = 1. -/
theorem test_accept_header_hd7 :
    next (exec (.acceptHeader 0 0x26) { st hdr8 with params := { params0 with maxFrames := 1 } }) (fun t =>
      (t.slot 0).fsm == .hunting && (t.slot 0).causes == [.hdrAlloc]) = true := by decide
/-- HD8: the allocation draw fails. -/
theorem test_accept_header_hd8 :
    next (exec (.acceptHeader 0 0x26)
      { st hdr8 with params := { params0 with allocMayFail := true }, ans := { good with allocOk := false } }) (fun t =>
      (t.slot 0).fsm == .hunting && (t.slot 0).causes == [.hdrAlloc]) = true := by decide
/-- RD15. -/
theorem test_accept_frame_rd15 : next (exec (.acceptFrame 0 0x74) (st frm1)) (fun t =>
    (t.slot 0).fsm == .hunting && !(t.slot 0).pktLive && (t.slot 0).causes == [.frmChecksum]) = true := by decide
/-- R73: in a state no run reaches, a payload write outside the buffer faults (log 21). -/
theorem test_payload_fault :
    faults (exec (.acceptFrame 0 0x75) { st frm1 with params := { params0 with maxFrames := 1 } }) .payloadIndexOutOfRange =
    true := by decide
/-- R285: nothing but the live bit, the reader state and the trace changes. -/
theorem test_abandon : next (exec (.abandon 0 .frmTopbit) (st frm1)) (fun t =>
    t.slots == [{ frm1 with fsm := .hunting, pktLive := false, causes := [.frmTopbit] }]) = true := by decide
/-- R287. -/
theorem test_fatal : next (exec (.fatal 0 .endOfStream) (st frm1)) (fun t =>
    t.slots == [{ frm1 with life := .teardown, td := .restore, pktLive := false, exit := .endOfStream }]) = true := by decide

/-! ### Lifecycle -/

/-- LC1. -/
theorem test_start_lc1 : next (exec (.start { id := 7 } false (some { id := 8 }) { id := 9 }) { idle0 with registered := false })
    (fun t => t.effects == [.startResult (.fail .notRegistered)]) = true := by decide
/-- LC2. -/
theorem test_register_lc2 : next (exec .register idle0) (fun t => t == idle0) = true := by decide
/-- LC3. -/
theorem test_start_lc3 : next (exec (.start { id := 7 } true (some { id := 8 }) { id := 9 }) { idle0 with ans := good })
    (fun t => (t.slot 0).cfgChanged && (t.slot 0).devOpen && (t.slot 0).life == .running && (t.slot 0).fsm == .hunting &&
      (t.slot 0).okPending && t.effects == [.devSetRaw { id := 4 } { id := 102 } true, .devQueryCfg { id := 4 } (some { id := 5 }),
        .devOpen { id := 7 } (some { id := 4 })]) = true := by decide
/-- R326: the host receives `Ok` in a turn of its own, here after the instance has stopped. -/
theorem test_start_returns : next (step { st { stop0 with okPending := true } with inputs := [.startReturns 3] })
    (fun t => t.effects == [.startResult (.ok 3)] && !(t.slot 0).okPending) = true := by decide
/-- R334: a handler that joins its own instance waits in its call. -/
theorem test_handler_joins_itself :
    next (step { st { full with call := some .packet } with inputs := [.handlerJoin 0 3] }) (fun t =>
      (t.slot 0).callJoin == some 3 && (t.slot 0).joinWait) = true := by decide
/-- R334: its call does not return. -/
theorem test_handler_that_joins_itself_holds :
    next (step (turn { full with call := some .packet, callJoin := some 3, joinWait := true } good)) (fun t =>
      (t.slot 0).call == some .packet && (t.slot 0).fsm == .delivering) = true := by decide
/-- R253: a handler that joins another instance goes on once that one has stopped. -/
theorem test_handler_joins_another :
    next (step { st { full with call := some .packet, callJoin := some 2 } with
      slots := [{ full with call := some .packet, callJoin := some 2 }, { stop0 with handle := 2, joinWait := true }],
      inputs := [.wake 2] }) (fun t =>
      (t.slot 0).callJoin == none && (t.slot 1).life == .free && t.effects == [.joinResult 2 (.ioError { id := 6 })]) = true := by
  decide
/-- R255, LC9: a second JOIN. -/
theorem test_join_refused : refuses (exec (.join 3) (st { stop0 with life := .free })) .joinNotAdmitted = true := by decide
/-- LC5, LC10: JOIN returns the exit value. -/
theorem test_join : next (exec (.join 3) (st stop0)) (fun t =>
    (t.slot 0).life == .free && t.effects == [.joinResult 3 (.ioError { id := 6 })]) = true := by decide
/-- LC5. -/
theorem test_td_restore : next (exec (.tdRestore 0) (st down0)) (fun t =>
    t.effects == [.devSetCfg { id := 4 } { id := 5 } true] && !(t.slot 0).cfgChanged && (t.slot 0).td == .close) = true := by
  decide
/-- LC10: a failed close is ignored. -/
theorem test_td_close :
    next (exec (.tdClose 0) { st { down0 with td := .close } with ans := { good with closeOk := false } }) (fun t =>
      t.effects == [.devClose { id := 4 } false] && !(t.slot 0).devOpen && (t.slot 0).td == .sentinel) = true := by decide
/-- R266. -/
theorem test_td_sentinel : next (exec (.tdSentinel 0) (st { down0 with td := .sentinel })) (fun t =>
    t.effects == [.sentinel 3 { id := 8 } { id := 9 }] && (t.slot 0).call == some .sentinel) = true := by decide
/-- R267. -/
theorem test_td_sentinel_ret : next (exec (.tdSentinelRet 0) (st { down0 with td := .sentinel, call := some .sentinel }))
    (fun t => (t.slot 0).sentinelDone && (t.slot 0).td == .release) = true := by decide
/-- R268. -/
theorem test_td_release : next (exec (.tdRelease 0) (st { down0 with td := .release }))
    (fun t => (t.slot 0).life == .stopped && (t.slot 0).exit == .ioError { id := 6 }) = true := by decide
/-- R320. -/
theorem test_hardware_reset :
    next (step { st run0 with inputs := [.hardwareReset] }) (fun t => !t.registered && (t.slot 0).life == .free) = true := by
  decide

/-! ### Witnesses of the obligations' hypotheses -/

theorem witness_HeaderDecodeAndHdrAreInverse_largest_fields :
    wireFields { dst := 0x7F7F, src := 0x7F7F, rev := 0x7F, cmd := 0x7F7F, nfr := 0x7F } = true := by decide
theorem witness_HeaderDecodeAndHdrAreInverse_clean_header :
    (∀ b ∈ (#v[0x7F, 0x7F, 0x7F, 0x7F, 0x7F, 0x7F, 0x7F, 0x01, 0x05] : Vector Byte 9).toList, topBit b = false) ∧
    headerDecode #v[0x7F, 0x7F, 0x7F, 0x7F, 0x7F, 0x7F, 0x7F, 0x01, 0x05] =
      some { dst := 0x7F7F, src := 0x7F7F, rev := 0x7F, cmd := 0x7F7F, nfr := 1 } := by decide
theorem witness_FrameDecodeAfterFrmIsIdentity :
    (∀ b ∈ (#v[0x01, 0x02, 0x03, 0x04, 0x71, 0x04] : Vector Byte 6).toList.take 5, topBit b = false) ∧
    frameDecode #v[0x01, 0x02, 0x03, 0x04, 0x71, 0x04] = some #v[0x81, 0x02, 0x03, 0x04] := by decide

/-- FD3 and the same frame with map bits 6..4 = 111 and its own checksum. -/
theorem witness_MapBitsSixToFourChangeNoLogicalByte_both_decode :
    (∀ i (hi : i < 4), (#v[0x01, 0x02, 0x03, 0x04, 0x00, 0x75] : Vector Byte 6)[i] =
      (#v[0x01, 0x02, 0x03, 0x04, 0x70, 0x05] : Vector Byte 6)[i]) ∧
    (∀ i < 4, (0x00 : Byte).getLsbD i = (0x70 : Byte).getLsbD i) ∧
    frameDecode #v[0x01, 0x02, 0x03, 0x04, 0x00, 0x75] = some #v[0x01, 0x02, 0x03, 0x04] ∧
    frameDecode #v[0x01, 0x02, 0x03, 0x04, 0x70, 0x05] = some #v[0x01, 0x02, 0x03, 0x04] := by decide
theorem witness_MapBitsSixToFourChangeNoLogicalByte_same_checksum :
    (∀ i (hi : i < 4), (#v[0x01, 0x02, 0x03, 0x04, 0x00, 0x75] : Vector Byte 6)[i] =
      (#v[0x01, 0x02, 0x03, 0x04, 0x70, 0x75] : Vector Byte 6)[i]) ∧
    (∀ i < 4, (0x00 : Byte).getLsbD i = (0x70 : Byte).getLsbD i) ∧ (0x00 : Byte) ≠ 0x70 ∧
    topBit 0x00 = false ∧ topBit 0x70 = false := by decide
theorem witness_SpanValidatesIffItsChecksumIsItsLastByte : topBit 0x80 = true := by decide
theorem witness_SumIsModulo256AndOrderFree : ([0x34, 0x12, 0xFF] : List Byte).Perm [0xFF, 0x34, 0x12] := by decide
theorem witness_CleanSingleByteErrorIsDetected_data :
    let s : List Byte := [0x34, 0x12, 0x00, 0x00, 0x01, 0x10, 0x00, 0x02, 0x26]
    ∃ hi : 0 < s.length, valid s = true ∧ (∀ c ∈ s, topBit c = false) ∧ topBit 0x35 = false ∧ (0x35 : Byte) ≠ s[0] :=
  ⟨by decide, by decide⟩
theorem witness_CleanSingleByteErrorIsDetected_checksum :
    let s : List Byte := [0x34, 0x12, 0x00, 0x00, 0x01, 0x10, 0x00, 0x02, 0x26]
    ∃ hi : 8 < s.length, valid s = true ∧ (∀ c ∈ s, topBit c = false) ∧ topBit 0x7F = false ∧ (0x7F : Byte) ≠ s[8] :=
  ⟨by decide, by decide⟩
theorem witness_BitSevenFlipOfDataByteIsNotSeen : 7 + 1 < ([0x34, 0x12, 0x00, 0x00, 0x01, 0x10, 0x00, 0x02, 0x26] : List Byte).length := by
  decide

theorem witness_StepRunsTheSelectedEvent_host : ∃ s : State, s.inputs = .op .register good :: [] ∧ fromOutside .register = true :=
  ⟨{ idle0 with inputs := [.op .register good] }, by decide⟩
theorem witness_StepRunsTheSelectedEvent_read :
    let s := turn { run0 with stream := [.byte 0x95, .eos] } good
    s.inputs = .inst 0 good :: [] ∧ (s.slot 0).life = .running ∧ (s.slot 0).stream = .byte 0x95 :: [.eos] ∧
    eventOf s.params.marker (s.slot 0).sequencer 0 (.byte 0x95) = .ok (.huntMarker 0) := by decide
theorem witness_StepRunsTheSelectedEvent_deliver :
    let s := turn full good
    s.inputs = .inst 0 good :: [] ∧ (s.slot 0).life = .running ∧ (s.slot 0).fsm = .delivering ∧ (s.slot 0).call = none := by
  decide
theorem witness_StepRunsTheSelectedEvent_return :
    let s := turn { full with call := some .packet } good
    s.inputs = .inst 0 good :: [] ∧ (s.slot 0).life = .running ∧ (s.slot 0).fsm = .delivering ∧
    (s.slot 0).call = some .packet ∧ good.handlerReturns = true ∧ (s.slot 0).callJoin = none := by decide
theorem witness_StepRunsTheSelectedEvent_teardown :
    ∀ td ∈ [Td.restore, Td.close, Td.release],
      (turn { down0 with td := td } good).inputs = .inst 0 good :: [] ∧ ((turn { down0 with td := td } good).slot 0).life = .teardown ∧
      ((turn { down0 with td := td } good).slot 0).td = td := by decide
theorem witness_StepRunsTheSelectedEvent_sentinel :
    let s := turn { down0 with td := .sentinel } good
    s.inputs = .inst 0 good :: [] ∧ (s.slot 0).life = .teardown ∧ (s.slot 0).td = .sentinel ∧ (s.slot 0).call = none ∧
    (s.slot 0).sentinelDone = false := by decide
theorem witness_StepRunsTheSelectedEvent_sentinel_return :
    let s := turn { down0 with td := .sentinel, call := some .sentinel } good
    s.inputs = .inst 0 good :: [] ∧ (s.slot 0).life = .teardown ∧ (s.slot 0).td = .sentinel ∧
    (s.slot 0).call = some .sentinel ∧ good.handlerReturns = true ∧ (s.slot 0).callJoin = none := by decide

/-- One live instance has distinct, used-up handles. -/
theorem handles_of_one (x : Slot) (hx : x.handle = 3) : (st x).handlesInv := by
  refine ⟨fun i hi _ => ?_, fun i hi j hj _ _ _ => ?_, fun i hi _ n hn => ?_⟩
  · obtain rfl : i = 0 := by simpa [st] using hi
    exact (congrArg (· < 4) hx).mpr (by decide)
  · have hi0 : i = 0 := by simpa [st] using hi
    have hj0 : j = 0 := by simpa [st] using hj
    rw [hi0, hj0]
  · obtain rfl : i = 0 := by simpa [st] using hi
    cases hn
    decide

theorem witness_StepRunsTheSelectedEvent_start_returns :
    let s := { st { run0 with okPending := true } with inputs := [.startReturns 3] }
    s.handlesInv ∧ s.inputs = .startReturns 3 :: [] ∧ (s.slot 0).live ∧ (s.slot 0).handle = 3 ∧ (s.slot 0).okPending = true :=
  ⟨handles_of_one { run0 with okPending := true } rfl, by decide⟩
theorem witness_StepRunsTheSelectedEvent_start_has_returned :
    let s := { st run0 with inputs := [.startReturns 3] }
    s.handlesInv ∧ s.inputs = .startReturns 3 :: [] ∧ (s.slot 0).live ∧ (s.slot 0).handle = 3 ∧ (s.slot 0).okPending = false :=
  ⟨handles_of_one run0 rfl, by decide⟩
theorem witness_StepRunsTheSelectedEvent_handler_join :
    let s := { st { full with call := some .packet } with inputs := [.handlerJoin 0 3] }
    s.inputs = .handlerJoin 0 3 :: [] ∧ (s.slot 0).call ≠ none ∧ (s.slot 0).callJoin = none := by decide
theorem witness_WaitingChangesNothing_no_turn : idle0.inputs = [] := by decide
theorem witness_WaitingChangesNothing_read :
    let s := turn run0 good
    s.inputs = .inst 0 good :: [] ∧ (s.slot 0).life = .running ∧ (s.slot 0).fsm ≠ .delivering ∧ (s.slot 0).stream = [] := by
  decide
theorem witness_WaitingChangesNothing_packet_call :
    let a := { good with handlerReturns := false }
    let s := turn { full with call := some .packet } a
    s.inputs = .inst 0 a :: [] ∧ (s.slot 0).life = .running ∧ (s.slot 0).fsm = .delivering ∧
    (s.slot 0).call = some .packet ∧ (a.handlerReturns = false ∨ (s.slot 0).callJoin ≠ none) := by decide
theorem witness_WaitingChangesNothing_packet_call_in_join :
    let s := turn { full with call := some .packet, callJoin := some 3 } good
    s.inputs = .inst 0 good :: [] ∧ (s.slot 0).life = .running ∧ (s.slot 0).fsm = .delivering ∧
    (s.slot 0).call = some .packet ∧ (good.handlerReturns = false ∨ (s.slot 0).callJoin ≠ none) := by decide
theorem witness_WaitingChangesNothing_sentinel_call :
    let a := { good with handlerReturns := false }
    let s := turn { down0 with td := .sentinel, call := some .sentinel } a
    s.inputs = .inst 0 a :: [] ∧ (s.slot 0).life = .teardown ∧ (s.slot 0).td = .sentinel ∧
    (s.slot 0).call = some .sentinel ∧ (a.handlerReturns = false ∨ (s.slot 0).callJoin ≠ none) := by decide
theorem witness_WaitingChangesNothing_free : (turn Slot.reset good).inputs = .inst 0 good :: [] ∧
    ((turn Slot.reset good).slot 0).life = .free := by decide
theorem witness_WaitingChangesNothing_stopped : (turn stop0 good).inputs = .inst 0 good :: [] ∧
    ((turn stop0 good).slot 0).life = .stopped := by decide

theorem witness_MarkerStartsHeader : ((st run0).slot 0).life = .running ∧ ((st run0).slot 0).fsm = .hunting := by decide
theorem witness_HuntSkipChangesNoState :
    ((st run0).slot 0).life = .running ∧ ((st run0).slot 0).fsm = .hunting ∧ (0x96 : Byte) ≠ (st run0).params.marker := by
  decide
theorem witness_HeaderByteIsStored :
    let x := (st { run0 with fsm := .readingHeader, hcnt := 7 }).slot 0
    x.life = .running ∧ x.fsm = .readingHeader ∧ topBit 0x7F = false ∧ x.hcnt.val < 8 := by decide
theorem witness_GoodHeaderIsAccepted :
    let s := st hdr8
    (s.slot 0).life = .running ∧ (s.slot 0).fsm = .readingHeader ∧ topBit 0x26 = false ∧ (s.slot 0).hcnt.val = 8 ∧
    ck ((s.slot 0).hbuf.toList.take 8) = 0x26 ∧ (s.slot 0).headerFields.nfr ≠ 0 ∧
    (s.slot 0).headerFields.nfr.toNat ≤ s.params.maxFrames.val ∧
    (s.params.allocMayFail = true → s.ans.allocOk = true) := by decide
/-- The boundary: exactly `MAX_FRAMES` frames, and an allocation that may fail but does not. -/
theorem witness_GoodHeaderIsAccepted_at_capacity :
    let s := { st hdr8 with params := { params0 with maxFrames := 2, allocMayFail := true } }
    (s.slot 0).life = .running ∧ (s.slot 0).fsm = .readingHeader ∧ topBit 0x26 = false ∧ (s.slot 0).hcnt.val = 8 ∧
    ck ((s.slot 0).hbuf.toList.take 8) = 0x26 ∧ (s.slot 0).headerFields.nfr ≠ 0 ∧
    (s.slot 0).headerFields.nfr.toNat = s.params.maxFrames.val ∧
    (s.params.allocMayFail = true → s.ans.allocOk = true) := by decide
theorem witness_GoodHeaderIsAccepted_without_frames :
    let s := st hdr8Empty
    (s.slot 0).life = .running ∧ (s.slot 0).fsm = .readingHeader ∧ topBit 0x78 = false ∧ (s.slot 0).hcnt.val = 8 ∧
    ck ((s.slot 0).hbuf.toList.take 8) = 0x78 ∧ (s.slot 0).headerFields.nfr = 0 ∧
    (s.params.allocMayFail = true → s.ans.allocOk = true) := by decide
theorem witness_BadOrOversizedHeaderIsAbandoned_checksum :
    let s := st hdr8
    (s.slot 0).life = .running ∧ (s.slot 0).fsm = .readingHeader ∧ topBit 0x27 = false ∧ (s.slot 0).hcnt.val = 8 ∧
    ck ((s.slot 0).hbuf.toList.take 8) ≠ 0x27 := by decide
theorem witness_BadOrOversizedHeaderIsAbandoned_capacity :
    let s := { st hdr8 with params := { params0 with maxFrames := 1 } }
    (s.slot 0).life = .running ∧ (s.slot 0).fsm = .readingHeader ∧ topBit 0x26 = false ∧ (s.slot 0).hcnt.val = 8 ∧
    ck ((s.slot 0).hbuf.toList.take 8) = 0x26 ∧ s.params.maxFrames.val < (s.slot 0).headerFields.nfr.toNat := by decide
theorem witness_BadOrOversizedHeaderIsAbandoned_draw :
    let s := { st hdr8 with params := { params0 with allocMayFail := true }, ans := { good with allocOk := false } }
    (s.slot 0).life = .running ∧ (s.slot 0).fsm = .readingHeader ∧ topBit 0x26 = false ∧ (s.slot 0).hcnt.val = 8 ∧
    ck ((s.slot 0).hbuf.toList.take 8) = 0x26 ∧ s.params.allocMayFail = true ∧ s.ans.allocOk = false := by decide
theorem witness_TopBitByteAbandonsPacket_header :
    ((st hdr8).slot 0).life = .running ∧ ((st hdr8).slot 0).fsm = .readingHeader ∧ topBit 0x80 = true := by decide
theorem witness_TopBitByteAbandonsPacket_frame :
    let x := (st { frm1 with fpos := 4 }).slot 0
    x.life = .running ∧ x.fsm = .readingFrames ∧ topBit 0x95 = true ∧ x.fpos.val < 5 := by decide
theorem witness_AbandonDiscardsAndHunts_header :
    ((st hdr8).slot 0).life = .running ∧ ((st hdr8).slot 0).fsm = .readingHeader := by decide
theorem witness_AbandonDiscardsAndHunts_frame :
    ((st frm1).slot 0).life = .running ∧ ((st frm1).slot 0).fsm = .readingFrames := by decide
theorem witness_FrameByteIsStored :
    let x := (st { frm0 with fpos := 4 }).slot 0
    x.life = .running ∧ x.fsm = .readingFrames ∧ topBit 0x0F = false ∧ x.fpos.val < 5 := by decide
theorem witness_GoodFrameIsAccepted_last :
    let s := st frm1
    (s.slot 0).life = .running ∧ (s.slot 0).fsm = .readingFrames ∧ (s.slot 0).fpos.val = 5 ∧
    ck ((s.slot 0).fbuf.toList.take 5) = 0x75 ∧ (s.slot 0).fidx.val < s.params.maxFrames.val ∧
    (s.slot 0).fidx.val + 1 = (s.slot 0).pkt.nfr.toNat := by decide
theorem witness_GoodFrameIsAccepted_not_last :
    let s := st frm0
    (s.slot 0).life = .running ∧ (s.slot 0).fsm = .readingFrames ∧ (s.slot 0).fpos.val = 5 ∧
    ck ((s.slot 0).fbuf.toList.take 5) = 0x38 ∧ (s.slot 0).fidx.val < s.params.maxFrames.val ∧
    (s.slot 0).fidx.val + 1 ≠ (s.slot 0).pkt.nfr.toNat := by decide
theorem witness_BadFrameAbandonsWholePacket_checksum :
    let s := st frm1
    (s.slot 0).life = .running ∧ (s.slot 0).fsm = .readingFrames ∧ (s.slot 0).fpos.val = 5 ∧
    ck ((s.slot 0).fbuf.toList.take 5) ≠ 0x74 := by decide
theorem witness_BadFrameAbandonsWholePacket_top_bit :
    let s := st frm1
    (s.slot 0).life = .running ∧ (s.slot 0).fsm = .readingFrames ∧ (s.slot 0).fpos.val = 5 ∧ topBit 0xF5 = true := by decide
theorem witness_TerminalReadBeginsTeardown :
    ((st frm1).slot 0).life = .running ∧ ((st frm1).slot 0).fsm ≠ .delivering := by decide
theorem witness_DeliverCallsHandlerWithThePacket :
    let x := (st full).slot 0
    x.life = .running ∧ x.fsm = .delivering ∧ x.call = none ∧ 7 < 4 * x.pkt.nfr.toNat ∧ PayBuf.read x.pay 7 = some 4 := by
  decide
theorem witness_HandlerReturnReleasesPacket :
    let x := (st { full with call := some .packet }).slot 0
    x.life = .running ∧ x.fsm = .delivering ∧ x.call = some .packet ∧ x.callJoin = none := by decide
theorem witness_HandlerReadsThePayloadDuringItsCall :
    let x := (st { full with call := some .packet }).slot 0
    x.call = some .packet ∧ 7 < 4 * x.pkt.nfr.toNat ∧ PayBuf.read x.pay 7 = some 4 := by decide
theorem witness_HandlerReadsThePayloadDuringItsCall_outside : ((st full).slot 0).call ≠ some .packet := by decide
theorem witness_EventWithoutRunningInstanceIsRefused_free :
    instanceOf (.huntMarker 5) = some 5 ∧ ((st run0).slot 5).life = .free := by decide
theorem witness_EventWithoutRunningInstanceIsRefused_stopped :
    instanceOf (.tdRelease 0) = some 0 ∧ ((st stop0).slot 0).life = .stopped := by decide

theorem witness_RegisterSetsTheBitOnly : idle0.registered = true := by decide

/-- A registered platform without instances, in an environment in which everything succeeds. -/
def ready : State := { idle0 with ans := good }

theorem ready_takes_slot_0 : ready.takesSlot 0 :=
  ⟨by decide, by decide, by decide, by intro n hn; cases hn; decide⟩

theorem ready_opens_device : ready.opensAs { id := 7 } { id := 4 } := .inr (by decide)

theorem ready_opens_standard_stream : ready.opensAs { id := 100 } { id := 101 } := .inl (by decide)

theorem ready_device_unused : ready.deviceUnused { id := 7 } { id := 4 } ∧ ready.deviceUnused { id := 100 } { id := 101 } :=
  ⟨fun _ h => (List.not_mem_nil h).elim, fun _ h => (List.not_mem_nil h).elim⟩

theorem witness_StartWithoutRawModeLaunches :
    ready.registered = true ∧ ready.takesSlot 0 ∧ ready.opensAs { id := 7 } { id := 4 } ∧
    ready.deviceUnused { id := 7 } { id := 4 } ∧ ready.ans.launchOk = true :=
  ⟨by decide, ready_takes_slot_0, ready_opens_device, ready_device_unused.1, by decide⟩
theorem witness_StartWithoutRawModeLaunches_standard_stream :
    ready.registered = true ∧ ready.takesSlot 0 ∧ ready.opensAs { id := 100 } { id := 101 } ∧
    ready.deviceUnused { id := 100 } { id := 101 } ∧ ready.ans.launchOk = true :=
  ⟨by decide, ready_takes_slot_0, ready_opens_standard_stream, ready_device_unused.2, by decide⟩
theorem witness_StartInRawModeSavesConfigurationAndLaunches :
    ready.registered = true ∧ ready.takesSlot 0 ∧ ready.opensAs { id := 7 } { id := 4 } ∧
    ready.deviceUnused { id := 7 } { id := 4 } ∧ ready.ans.queryAns = some { id := 5 } ∧ ready.ans.setRawOk = true ∧
    ready.ans.launchOk = true :=
  ⟨by decide, ready_takes_slot_0, ready_opens_device, ready_device_unused.1, by decide⟩

theorem witness_StartFailsBeforeADeviceIsOpen_not_registered : ({ ready with registered := false } : State).registered = false := by
  decide
/-- `MAX_INSTANCES` is 2 and both slots are taken. -/
theorem witness_StartFailsBeforeADeviceIsOpen_no_slot :
    let s := { st run0 with slots := [run0, { stop0 with handle := 2 }] }
    s.registered = true ∧ s.noSlot :=
  ⟨by decide, .inr ⟨2, by decide, by decide⟩⟩
theorem witness_StartFailsBeforeADeviceIsOpen_not_granted :
    let s := { ready with ans := { good with slotGranted := false } }
    s.registered = true ∧ s.noSlot := ⟨by decide, .inl (by decide)⟩
theorem witness_StartFailsBeforeADeviceIsOpen_open_fails :
    let s := { ready with ans := { good with openAns := none } }
    s.registered = true ∧ s.takesSlot 0 ∧ ({ id := 7 } : DevPath) ≠ s.params.stdStreamPath ∧ s.ans.openAns = none :=
  ⟨by decide, ⟨by decide, by decide, by decide, by intro n hn; cases hn; decide⟩, by decide, by decide⟩
theorem witness_StartFailsInConfigurationAndCleansUp_query :
    let s := { ready with ans := { good with queryAns := none } }
    s.registered = true ∧ s.takesSlot 0 ∧ s.opensAs { id := 7 } { id := 4 } ∧ s.ans.queryAns = none :=
  ⟨by decide, ⟨by decide, by decide, by decide, by intro n hn; cases hn; decide⟩, .inr (by decide), by decide⟩
theorem witness_StartFailsInConfigurationAndCleansUp_set :
    let s := { ready with ans := { good with setRawOk := false } }
    s.registered = true ∧ s.takesSlot 0 ∧ s.opensAs { id := 7 } { id := 4 } ∧ s.ans.queryAns = some { id := 5 } ∧
    s.ans.setRawOk = false :=
  ⟨by decide, ⟨by decide, by decide, by decide, by intro n hn; cases hn; decide⟩, .inr (by decide), by decide⟩
theorem witness_StartFailsAtLaunchAndCleansUp :
    let s := { ready with ans := { good with launchOk := false } }
    s.registered = true ∧ s.takesSlot 0 ∧ s.opensAs { id := 7 } { id := 4 } ∧ s.ans.launchOk = false ∧
    s.ans.queryAns = some { id := 5 } ∧ s.ans.setRawOk = true :=
  ⟨by decide, ⟨by decide, by decide, by decide, by intro n hn; cases hn; decide⟩, .inr (by decide), by decide⟩
theorem witness_StartMakesNoHandlerCall :
    ∃ t, exec (.start { id := 7 } true (some { id := 8 }) { id := 9 }) ready = .next t := ⟨_, rfl⟩
theorem witness_StartRefusesNullHandlerAndSharedDevice_null :
    ready.registered = true ∧ ready.takesSlot 0 ∧ ready.opensAs { id := 7 } { id := 4 } :=
  ⟨by decide, ready_takes_slot_0, ready_opens_device⟩
/-- Slot 0 holds device 4 open, and a START of another path is answered with the same device. -/
theorem witness_StartRefusesNullHandlerAndSharedDevice_shared :
    let s := { st run0 with ans := good }
    s.registered = true ∧ s.takesSlot 1 ∧ s.opensAs { id := 77 } { id := 4 } ∧ s.ans.launchOk = true ∧
    ¬ s.deviceUnused { id := 77 } { id := 4 } :=
  ⟨by decide, ⟨by decide, by decide, by decide, by intro n hn; cases hn; decide⟩, .inr (by decide), by decide,
    fun h => (h run0 (by decide) (by decide) (by decide)).1 rfl⟩
theorem witness_StartRefusesNullHandlerAndSharedDevice_shared_raw :
    let s := { st run0 with ans := good }
    s.registered = true ∧ s.takesSlot 1 ∧ s.opensAs { id := 77 } { id := 4 } ∧ s.ans.queryAns = some { id := 5 } ∧
    s.ans.setRawOk = true ∧ s.ans.launchOk = true ∧ ¬ s.deviceUnused { id := 77 } { id := 4 } :=
  ⟨by decide, ⟨by decide, by decide, by decide, by intro n hn; cases hn; decide⟩, .inr (by decide), by decide, by decide, by decide,
    fun h => (h run0 (by decide) (by decide) (by decide)).1 rfl⟩

theorem witness_JoinOfStoppedInstanceReturnsItsExitValue :
    (st stop0).handlesInv ∧ ((st stop0).slot 0).life = .stopped ∧ ((st stop0).slot 0).handle = 3 ∧
    ((st stop0).slot 0).okPending = false ∧ ((st stop0).slot 0).joinWait = false :=
  ⟨handles_of_one _ rfl, by decide⟩
theorem witness_JoinWaitsUntilStopped_running :
    (st run0).handlesInv ∧ ((st run0).slot 0).life = .running ∧ ((st run0).slot 0).handle = 3 ∧
    ((st run0).slot 0).okPending = false ∧ ((st run0).slot 0).joinWait = false := ⟨handles_of_one _ rfl, by decide⟩
theorem witness_JoinWaitsUntilStopped_teardown :
    (st down0).handlesInv ∧ ((st down0).slot 0).life = .teardown ∧ ((st down0).slot 0).handle = 3 ∧
    ((st down0).slot 0).okPending = false ∧ ((st down0).slot 0).joinWait = false := ⟨handles_of_one _ rfl, by decide⟩
theorem witness_JoinWaitsUntilStopped_wakes :
    let s := { st { stop0 with joinWait := true } with inputs := [.wake 3] }
    s.handlesInv ∧ s.inputs = .wake 3 :: [] ∧ (s.slot 0).live ∧ (s.slot 0).handle = 3 ∧ (s.slot 0).life = .stopped ∧
    (s.slot 0).joinWait = true :=
  ⟨handles_of_one { stop0 with joinWait := true } rfl, by decide⟩
theorem witness_JoinWaitsUntilStopped_still_waits :
    let s := { st { down0 with joinWait := true } with inputs := [.wake 3] }
    s.handlesInv ∧ s.inputs = .wake 3 :: [] ∧ (s.slot 0).live ∧ (s.slot 0).handle = 3 ∧ (s.slot 0).life ≠ .stopped :=
  ⟨handles_of_one { down0 with joinWait := true } rfl, by decide⟩
theorem witness_JoinIsRefusedWithoutItsOneInstance_no_handle : ∀ k, (ready.slot k).live → (ready.slot k).handle ≠ 3 :=
  fun _ h => (h rfl).elim
theorem witness_JoinIsRefusedWithoutItsOneInstance_second :
    let s := st { run0 with joinWait := true }
    s.handlesInv ∧ (s.slot 0).live ∧ (s.slot 0).handle = 3 ∧ ((s.slot 0).okPending = true ∨ (s.slot 0).joinWait = true) :=
  ⟨handles_of_one _ rfl, by decide⟩
theorem witness_JoinIsRefusedWithoutItsOneInstance_not_returned :
    let s := st { run0 with okPending := true }
    s.handlesInv ∧ (s.slot 0).live ∧ (s.slot 0).handle = 3 ∧ ((s.slot 0).okPending = true ∨ (s.slot 0).joinWait = true) :=
  ⟨handles_of_one _ rfl, by decide⟩
theorem witness_HandlerThatJoinsItsOwnInstanceIsStuck :
    let s := { st { full with call := some .packet } with inputs := [.handlerJoin 0 3] }
    s.handlesInv ∧ (s.slot 0).callInv ∧ s.inputs = .handlerJoin 0 (s.slot 0).handle :: [] ∧ (s.slot 0).call ≠ none ∧
    (s.slot 0).callJoin = none ∧ (s.slot 0).okPending = false ∧ (s.slot 0).joinWait = false :=
  ⟨handles_of_one { full with call := some .packet } rfl, by decide⟩
theorem witness_HandlerThatJoinsItsOwnInstanceIsStuck_no_return :
    ((st { full with call := some .packet, callJoin := some 3 }).slot 0).callJoin ≠ none := by decide
/-- A run of two steps in which the handler of the sentinel call that joined its own instance is let return. -/
theorem witness_HandlerThatJoinsItsOwnInstanceIsStuck_run :
    let x := { down0 with td := .sentinel, call := some .sentinel, callJoin := some 3, joinWait := true }
    let s := { st x with inputs := [.inst 0 good, .wake 3] }
    s.handlesInv ∧ (s.slot 0).callInv ∧ (s.slot 0).call ≠ none ∧ (s.slot 0).callJoin = some (s.slot 0).handle ∧
    Turn.hardwareReset ∉ s.inputs ∧ ∃ t : State, Sys2Proof.core.run 2 s = .next t :=
  ⟨handles_of_one { down0 with td := .sentinel, call := some .sentinel, callJoin := some 3, joinWait := true } rfl,
    by decide, by decide, by decide, by decide, _, rfl⟩

theorem witness_TeardownRestoresThenCloses_restore :
    ((st down0).slot 0).life = .teardown ∧ ((st down0).slot 0).td = .restore := by decide
theorem witness_TeardownRestoresThenCloses_close :
    ((st { down0 with td := .close }).slot 0).life = .teardown ∧ ((st { down0 with td := .close }).slot 0).td = .close := by
  decide
theorem witness_TeardownDeliversTheSentinel_call :
    let x := (st { down0 with td := .sentinel }).slot 0
    x.life = .teardown ∧ x.td = .sentinel ∧ x.sentinelDone = false ∧ x.call = none := by decide
theorem witness_TeardownDeliversTheSentinel_return :
    let x := (st { down0 with td := .sentinel, call := some .sentinel }).slot 0
    x.life = .teardown ∧ x.td = .sentinel ∧ x.call = some .sentinel ∧ x.callJoin = none := by decide
theorem witness_ReleaseStopsTheInstanceAndKeepsExit :
    ((st { down0 with td := .release }).slot 0).life = .teardown ∧ ((st { down0 with td := .release }).slot 0).td = .release := by
  decide
theorem witness_TeardownRunsInOrderToStopped :
    let s := { st down0 with inputs := List.replicate 5 (Turn.inst 0 good) ++ [] }
    (s.slot 0).life = .teardown ∧ (s.slot 0).td = .restore ∧ (s.slot 0).call = none ∧ (s.slot 0).callJoin = none ∧
    (s.slot 0).sentinelDone = false ∧ good.handlerReturns = true ∧ s.inputs = List.replicate 5 (Turn.inst 0 good) ++ [] := by decide
theorem witness_HardwareResetDiscardsInstances :
    ({ st run0 with inputs := [.hardwareReset] } : State).inputs = .hardwareReset :: [] := by decide
/-- After the reset a REGISTER and a START run. -/
theorem witness_HardwareResetDiscardsInstances_afterwards :
    let rest := [.op .register good, .op (.start { id := 7 } false (some { id := 8 }) { id := 9 }) good]
    let s := { st run0 with inputs := .hardwareReset :: rest }
    s.inputs = .hardwareReset :: rest ∧ s.handlesInv ∧ (s.slot 0).live ∧
    ∃ t u : State, step s = .next t ∧ Sys2Proof.core.run 2 t = .next u :=
  ⟨rfl, handles_of_one run0 rfl, by decide, _, _, rfl, rfl⟩

/-- The slot invariant of a machine with one instance, from its parts. -/
theorem slots_of_one (x : Slot) (h1 : x.readerInv params0) (h2 : x.fieldsInv) (h3 : x.payInv params0) (h4 : x.callInv)
    (h5 : x.lifeInv) (h6 : x.waitInv) : (st x).slotsInv := by
  intro y hy
  obtain rfl : y = x := by simpa [st] using hy
  exact ⟨h1, h2, h3, h4, h5, h6⟩

/-- A machine in the middle of a packet meets the slot invariant, and a step of it is taken. -/
theorem witness_StepKeepsTheSlotInvariant :
    let s := turn { frm1 with stream := [.byte 0x75] } good
    s.slotsInv ∧ ∃ t, step s = .next t :=
  ⟨slots_of_one { frm1 with stream := [.byte 0x75] } (by decide) (by decide) (by decide) (by decide)
    ⟨by decide, by decide, by decide, by decide⟩ (by decide), _, rfl⟩
theorem witness_StepKeepsHandlesDistinct :
    let s := turn { run0 with stream := [.byte 0x41] } good
    s.handlesInv ∧ ∃ t, step s = .next t := ⟨handles_of_one _ rfl, _, rfl⟩
/-- The step that makes the sentinel call. -/
theorem witness_StepKeepsSentinelExactlyOnce :
    let s := turn { down0 with td := .sentinel, devOpen := false, cfgChanged := false } good
    s.inv ∧ ∃ t, step s = .next t :=
  ⟨⟨slots_of_one { down0 with td := .sentinel, devOpen := false, cfgChanged := false } (by decide) (by decide) (by decide)
      (by decide) ⟨by decide, by decide, by decide, by decide⟩ (by decide), handles_of_one _ rfl, by decide⟩, _, rfl⟩
theorem witness_NoByteStopsTheBlock :
    let s := turn { frm1 with stream := [.byte 0x95] } good
    s.slotsInv ∧ s.inputs = .inst 0 good :: [] ∧ (s.slot 0).life = .running ∧ (s.slot 0).fsm ≠ .delivering ∧
    (s.slot 0).stream = .byte 0x95 :: [] :=
  ⟨slots_of_one { frm1 with stream := [.byte 0x95] } (by decide) (by decide) (by decide) (by decide)
    ⟨by decide, by decide, by decide, by decide⟩ (by decide), by decide⟩
theorem witness_NoByteStopsTheBlock_leaves_running :
    let s := turn { frm1 with stream := [.eos] } good
    ∃ t, step s = .next t ∧ (s.slot 0).life = .running ∧ (t.slot 0).life ≠ .running := ⟨_, rfl, by decide, by decide⟩
theorem witness_LifeChangesOnlyInItsOrder : ∃ t, step (turn { run0 with stream := [.eos] } good) = .next t := ⟨_, rfl⟩
theorem witness_LatchedRegistersStay :
    let s := turn down0 good
    ∃ t, step s = .next t ∧ (s.slot 0).life = .teardown ∧ (t.slot 0).life = .teardown := ⟨_, rfl, by decide, by decide⟩
theorem witness_InstanceStepIsIndependent :
    let s := turn { run0 with stream := [.byte 0x95] } good
    let u := { s with slots := s.slots ++ [frm1], registered := false, nextHandle := 9 }
    s.inputs = .inst 0 good :: [] ∧ u.inputs = .inst 0 good :: [] ∧ s.params = u.params ∧ s.draw = u.draw ∧
    s.slot 0 = u.slot 0 ∧ ∃ t, step s = .next t := ⟨by decide, by decide, rfl, rfl, by decide, _, rfl⟩
theorem witness_AbandonedValuesAreNeverSeen : hdr8.life = .running := by decide
/-- The machine with instance `x`, and the same but for what an abandoned attempt may leave in a hunting or delivering slot. -/
def seen (x : Slot) (ts : List Turn) : State := { st x with inputs := ts }
def stale (x : Slot) (ts : List Turn) : State :=
  seen { x with hcnt := 8, hbuf := hbufS1, fidx := 3, pay := x.pay ++ [(20, 0x7A)], causes := [.frmTopbit] } ts
def hunt2 : Slot := { run0 with stream := [.byte 0x95, .byte 0x41] }
def call0 : Slot := { full with call := some .packet }
theorem stale_hunt2 (ts : List Turn) : (seen hunt2 ts).sameFutureAt 0 (stale hunt2 ts) :=
  ⟨⟨rfl, rfl, rfl, rfl, rfl, rfl, rfl, rfl, rfl, rfl, rfl, rfl, rfl, rfl, rfl, rfl, fun h => absurd rfl h, nofun, nofun, nofun⟩,
    fun j hj => by cases j with | zero => exact absurd rfl hj | succ j => rfl, rfl, rfl, rfl, rfl, rfl, rfl, rfl⟩
theorem stale_call0 (ts : List Turn) : (seen call0 ts).sameFutureAt 0 (stale call0 ts) :=
  ⟨⟨rfl, rfl, rfl, rfl, rfl, rfl, rfl, rfl, rfl, rfl, rfl, rfl, rfl, rfl, rfl, rfl, fun h => absurd rfl h, nofun, nofun,
      fun _ _ => ⟨rfl, show ∀ i < 8, PayBuf.read call0.pay i = PayBuf.read (call0.pay ++ [(20, 0x7A)]) i by decide⟩⟩,
    fun j hj => by cases j with | zero => exact absurd rfl hj | succ j => rfl, rfl, rfl, rfl, rfl, rfl, rfl, rfl⟩
theorem witness_AbandonedValuesAreNeverSeen_step :
    (seen hunt2 [.inst 0 good]).sameFutureAt 0 (stale hunt2 [.inst 0 good]) ∧ ∃ t, step (seen hunt2 [.inst 0 good]) = .next t :=
  ⟨stale_hunt2 _, _, rfl⟩
/-- Another turn than the instance's own: the host registers. -/
theorem witness_AbandonedValuesAreNeverSeen_other_turn :
    (seen hunt2 [.op .register good]).sameFutureAt 0 (stale hunt2 [.op .register good]) ∧
    ∃ t, step (seen hunt2 [.op .register good]) = .next t := ⟨stale_hunt2 _, _, rfl⟩
theorem witness_AbandonedValuesAreNeverSeen_run :
    (seen hunt2 [.inst 0 good, .inst 0 good]).sameFutureAt 0 (stale hunt2 [.inst 0 good, .inst 0 good]) ∧
    ∃ t : State, Sys2Proof.core.run 2 (seen hunt2 [.inst 0 good, .inst 0 good]) = .next t := ⟨stale_hunt2 _, _, rfl⟩
theorem witness_AbandonedValuesAreNeverSeen_handler_reads :
    (seen call0 []).sameFutureAt 0 (stale call0 []) ∧ ((seen call0 []).slot 0).callInv := ⟨stale_call0 _, by decide⟩
theorem witness_BytesWithoutMarkerReachNoHandler :
    let bs : List Byte := [0x41, 0x96, 0x00]
    let s := { st { run0 with stream := bs.map .byte ++ [.eos] } with inputs := List.replicate 3 (Turn.inst 0 good) ++ [] }
    (s.slot 0).life = .running ∧ (s.slot 0).fsm = .hunting ∧ (∀ b ∈ bs, b ≠ s.params.marker) ∧
    (s.slot 0).stream = bs.map .byte ++ [.eos] ∧ s.inputs = List.replicate bs.length (Turn.inst 0 good) ++ [] := by decide
/-- Packet A of program P2, one frame. -/
theorem witness_IntactPacketIsDelivered :
    let bs : List Byte := [0x95, 0x01, 0x00, 0x02, 0x00, 0x01, 0x03, 0x00, 0x01, 0x77, 0x11, 0x22, 0x33, 0x44, 0x00, 0x55]
    let s := { st { run0 with stream := bs.map .byte ++ [] } with inputs := List.replicate 17 (Turn.inst 0 good) ++ [] }
    (s.slot 0).life = .running ∧ (s.slot 0).fsm = .hunting ∧ (s.slot 0).call = none ∧
    pktBytes s.params.marker 0x0001 0x0002 0x01 0x0003 [0x11, 0x22, 0x33, 0x44] = .ok bs ∧
    ([0x11, 0x22, 0x33, 0x44] : List Byte).length / 4 ≤ s.params.maxFrames.val ∧
    (s.params.allocMayFail = true → good.allocOk = true) ∧
    (s.slot 0).stream = bs.map .byte ++ [] ∧ s.inputs = List.replicate (bs.length + 1) (Turn.inst 0 good) ++ [] := by decide

end Sys2Proof.Machine.Tests
end

section
/-!
PROOFS. The state family (10_state.md): the slot invariant is kept by every move of an instance and by every host operation, so by
every step (O51); the lifecycle order (O55) and the latched registers (O56) from what a step can do to one slot; reset (O48, O50).
-/

namespace Sys2Proof.Machine

/-! ### Captured bytes -/

/-- The first `n` bytes of a capture buffer have top bit 0 (R36, R38). -/
abbrev CleanBelow {m : Nat} (v : Vector Byte m) (n : Nat) : Prop := ∀ i < n, topBit (v.toList.getD i 0) = false

/-- A byte stored at `i` or above leaves the bytes below `i` clean. -/
theorem CleanBelow.set_above {m n i : Nat} {v : Vector Byte m} {b : Byte} (hv : CleanBelow v n) (hi : i < m) (hn : n ≤ i) :
    CleanBelow (v.set i b) n := by
  intro j hj
  have hne : i ≠ j := by omega
  simpa [List.getD, List.getElem?_set, hne] using hv j hj

/-- A clean byte stored next extends the clean bytes. -/
theorem CleanBelow.set_next {m i : Nat} {v : Vector Byte m} {b : Byte} (hv : CleanBelow v i) (hi : i < m)
    (hb : topBit b = false) : CleanBelow (v.set i b) (i + 1) := by
  intro j hj
  rcases Nat.lt_succ_iff_lt_or_eq.mp hj with hlt | rfl
  · exact hv.set_above hi le_rfl j hlt
  · simpa [List.getD, List.getElem?_set, hi] using hb

/-- A clean buffer's bytes, by index. -/
theorem CleanBelow.getElem {m n i : Nat} {v : Vector Byte m} (hv : CleanBelow v n) (hi : i < m) (hn : i < n) :
    topBit v[i] = false := by
  simpa [List.getD, hi] using hv i hn

/-- A 16-bit field is one wire bytes can carry exactly where both its wire bytes are clean (R47, R107). -/
theorem wireHalf_assemble (lo hi : Byte) : wireHalf (assemble lo hi) = (!topBit lo && !topBit hi) := by
  simp [wireHalf, assemble, topBit]

/-- The header decoded from eight clean bytes and any checksum has fields in the wire's range (R47, R160). -/
theorem wireFields_of_headerDecode {h : Vector Byte 9} {f : PktFields} (hd : headerDecode h = some f)
    (hc : CleanBelow h 8) : wireFields f = true := by
  unfold headerDecode at hd
  split at hd
  · cases hd
    simp [wireFields, wireHalf_assemble, hc.getElem]
  · cases hd

/-! ### The slot invariant, by the state the slot is in -/

section
variable {p : Params} {x y : Slot}

theorem Slot.readerInv_of_hunting (hf : x.fsm = .hunting) (hp : x.pktLive = false) : x.readerInv p :=
  fun _ => ⟨fun _ => hp, by simp [hf], by simp [hf], by simp [hf]⟩

theorem Slot.readerInv_of_readingHeader (hf : x.fsm = .readingHeader) (hp : x.pktLive = false)
    (hc : CleanBelow x.hbuf x.hcnt.val) : x.readerInv p :=
  fun _ => ⟨by simp [hf], fun _ => ⟨Nat.le_of_lt_succ x.hcnt.isLt, hp, hc⟩, by simp [hf], by simp [hf]⟩

theorem Slot.readerInv_of_readingFrames (hf : x.fsm = .readingFrames) (hp : x.pktLive = true)
    (hm : x.pkt.nfr.toNat ≤ p.maxFrames.val) (hi : x.fidx.val < x.pkt.nfr.toNat)
    (hw : PayBuf.writtenBelow x.pay (4 * x.fidx.val)) (hc : CleanBelow x.fbuf x.fpos.val) : x.readerInv p :=
  fun _ => ⟨by simp [hf], by simp [hf], fun _ => ⟨hp, by omega, hm, hi, Nat.le_of_lt_succ x.fpos.isLt, hw, hc⟩, by simp [hf]⟩

theorem Slot.readerInv_of_delivering (hf : x.fsm = .delivering) (hp : x.pktLive = true)
    (hm : x.pkt.nfr.toNat ≤ p.maxFrames.val) (hw : PayBuf.writtenBelow x.pay (4 * x.pkt.nfr.toNat)) : x.readerInv p :=
  fun _ => ⟨by simp [hf], by simp [hf], by simp [hf], fun _ => ⟨hp, hm, hw⟩⟩

/-- R53 while the header is captured. -/
theorem Slot.inv_readingHeader (h : x.inv p) (hl : x.life = .running) (hf : x.fsm = .readingHeader) :
    x.pktLive = false ∧ CleanBelow x.hbuf x.hcnt.val := by
  obtain ⟨hread, -⟩ := h
  obtain ⟨-, hhdr, -⟩ := hread hl
  obtain ⟨-, hlive, hclean⟩ := hhdr hf
  exact ⟨hlive, hclean⟩

/-- R53 while frames are captured. -/
theorem Slot.inv_readingFrames (h : x.inv p) (hl : x.life = .running) (hf : x.fsm = .readingFrames) :
    x.pktLive = true ∧ x.pkt.nfr.toNat ≤ p.maxFrames.val ∧ x.fidx.val < x.pkt.nfr.toNat ∧
      PayBuf.writtenBelow x.pay (4 * x.fidx.val) ∧ CleanBelow x.fbuf x.fpos.val := by
  obtain ⟨hread, -⟩ := h
  obtain ⟨-, -, hfrm, -⟩ := hread hl
  obtain ⟨hlive, -, hmax, hidx, -, hwritten, hclean⟩ := hfrm hf
  exact ⟨hlive, hmax, hidx, hwritten, hclean⟩

/-- Outside DELIVERING and TD_SENTINEL no handler call is in progress, so none waits in a JOIN (R82, R266, R334). -/
theorem Slot.inv_call_none (h : x.inv p) (hr : ¬ (x.life = .running ∧ x.fsm = .delivering))
    (ht : ¬ (x.life = .teardown ∧ x.td = .sentinel)) : x.call = none ∧ x.callJoin = none := by
  obtain ⟨-, -, -, ⟨hpkt, hsent, hjoin⟩, -⟩ := h
  have hcall : x.call = none := by
    cases hc : x.call with
    | none => rfl
    | some c =>
      cases c with
      | packet => exact absurd (hpkt hc) hr
      | sentinel => exact absurd (hsent hc) ht
  exact ⟨hcall, by_contra fun hj => hjoin hj hcall⟩

/-- A FREE slot has its invariant where its status bits are 0, no call is in progress and nothing waits on it. -/
theorem Slot.inv_of_free (hl : x.life = .free) (hd : x.devOpen = false) (hg : x.cfgChanged = false) (hk : x.pktLive = false)
    (hp : x.payInv p) (hc : x.call = none ∧ x.callJoin = none) (ho : x.okPending = false) (hj : x.joinWait = false) :
    x.inv p := by
  refine ⟨?_, ?_, hp, ?_, ?_, fun _ => ⟨ho, hj⟩, fun _ => ho⟩
  · simp [Slot.readerInv, hl]
  · simp [Slot.fieldsInv, hk]
  · simp [Slot.callInv, hc]
  · simp [Slot.lifeInv, hl, hd, hg, hk]

theorem Slot.inv_reset (p : Params) : Slot.reset.inv p :=
  Slot.inv_of_free rfl rfl rfl rfl ⟨PayBuf.wf_reset, nofun⟩ ⟨rfl, rfl⟩ rfl rfl

/-! ### The slot invariant along the moves of an instance -/

/-- Slot `y` is slot `x` but for the reader's own registers: its state and counters, the capture buffers, the packet record, the
input stream and the trace of abandons. -/
abbrev Slot.readerOnly (x y : Slot) : Prop :=
  y = { x with fsm := y.fsm, hcnt := y.hcnt, hbuf := y.hbuf, fpos := y.fpos, fbuf := y.fbuf, fidx := y.fidx, pkt := y.pkt,
               pay := y.pay, pktLive := y.pktLive, stream := y.stream, causes := y.causes }

theorem Slot.acceptHeader_readerOnly (a : Bool) (b : Byte) (x : Slot) (hb : Vector Byte 9) :
    x.readerOnly (Slot.acceptHeader p a b { x with hbuf := hb }) := by
  rcases Slot.acceptHeader_cases p a b { x with hbuf := hb } with ⟨e, -⟩ | ⟨f, -, ⟨e, -⟩ | ⟨-, -, ⟨-, e⟩ | ⟨-, e⟩⟩⟩ <;>
    rw [e] <;> rfl

theorem Slot.acceptFrame_readerOnly {b : Byte} {fb : Vector Byte 6} (h : Slot.acceptFrame p b { x with fbuf := fb } = .ok y) :
    x.readerOnly y := by
  rcases Slot.acceptFrame_cases p b _ y h with ⟨rfl, -⟩ | ⟨l, m, -, -, ⟨-, rfl⟩ | ⟨-, rfl⟩⟩ <;> rfl

/-- A move out of a reading state that writes only the reader's registers keeps the invariant where it keeps the parts that
speak of them. -/
theorem Slot.inv_of_readerOnly (h : x.inv p) (hl : x.life = .running) (hf : x.fsm ≠ .delivering) (hy : x.readerOnly y)
    (hr : y.readerInv p) (hw : y.fieldsInv) (hp : y.payInv p) : y.inv p := by
  obtain ⟨hcall, hcj⟩ := Slot.inv_call_none h (by simp [hf]) (by simp [hl])
  obtain ⟨-, -, -, -, ⟨-, hrun, -⟩, -, hwait⟩ := h
  refine ⟨hr, hw, hp, ?_, ?_, ?_⟩ <;> rw [hy]
  · simp [Slot.callInv, hcall, hcj]
  · simpa [Slot.lifeInv, hl] using hrun hl
  · simpa [Slot.waitInv, hl] using hwait

theorem Slot.inv_abandon (c : AbandonCause) (h : x.inv p) (hl : x.life = .running) (hf : x.fsm ≠ .delivering) :
    (x.abandon c).inv p :=
  have ⟨_, _, hpay, _⟩ := h
  Slot.inv_of_readerOnly h hl hf rfl (Slot.readerInv_of_hunting rfl rfl) nofun hpay

theorem Slot.inv_fatal (v : ExitValue) (h : x.inv p) (hl : x.life = .running) (hf : x.fsm ≠ .delivering) :
    (x.fatal v).inv p := by
  obtain ⟨hcall, hcj⟩ := Slot.inv_call_none h (by simp [hf]) (by simp [hl])
  obtain ⟨-, -, hpay, -, ⟨-, hrun, -⟩, -, hwait⟩ := h
  obtain ⟨hdev, hdone, -⟩ := hrun hl
  refine ⟨nofun, nofun, hpay, ?_, ?_, nofun, hwait⟩
  · simp [Slot.callInv, hcall, hcj]
  · simp [Slot.lifeInv, hdev, hdone]

theorem Slot.inv_acceptHeader (a : Bool) (b : Byte) (h : x.inv p) (hl : x.life = .running) (hf : x.fsm = .readingHeader)
    (hn : x.hcnt.val = 8) : (x.acceptHeader p a b).inv p := by
  have hne : x.fsm ≠ .delivering := by simp [hf]
  obtain ⟨-, hclean⟩ := Slot.inv_readingHeader h hl hf
  have ⟨_, _, hpay, _⟩ := h
  rcases x.acceptHeader_cases p a b with ⟨e, -⟩ | ⟨f, hd, ⟨e, -⟩ | ⟨hmax, -, hacc⟩⟩
  · rw [e]; exact Slot.inv_abandon _ h hl hne
  · rw [e]; exact Slot.inv_abandon _ h hl hne
  · have hwire : wireFields f = true :=
      wireFields_of_headerDecode hd (CleanBelow.set_above (hn ▸ hclean) (by decide) le_rfl)
    rcases hacc with ⟨h0, e⟩ | ⟨h0, e⟩ <;> rw [e]
    · refine Slot.inv_of_readerOnly h hl hne rfl (Slot.readerInv_of_delivering rfl rfl hmax ?_) (fun _ => hwire) hpay
      simp [h0, PayBuf.writtenBelow]
    · have hpos : 0 < f.nfr.toNat := Nat.pos_of_ne_zero fun e => h0 (BitVec.eq_of_toNat_eq e)
      exact Slot.inv_of_readerOnly h hl hne rfl (Slot.readerInv_of_readingFrames rfl rfl hmax hpos nofun nofun)
        (fun _ => hwire) hpay

/-- Four bytes written after `4 * n` written ones make `4 * (n + 1)`. -/
theorem memWriteAll_writtenBelow {m m' : PayBuf} {n : Nat} {l : Vector Byte 4}
    (hm : memWriteAll p m (4 * n) l.toList = .ok m') (hw : PayBuf.writtenBelow m (4 * n)) :
    PayBuf.writtenBelow m' (4 * (n + 1)) := by
  intro i hi
  rw [memWriteAll_read p m m' (4 * n) l.toList hm]
  split
  · next hin => simpa using (by omega : i - 4 * n < 4)
  · next hout => exact hw i (by rw [Vector.length_toList] at hout; omega)

theorem Slot.inv_acceptFrame {b : Byte} (h : x.inv p) (hl : x.life = .running) (hf : x.fsm = .readingFrames)
    (hy : x.acceptFrame p b = .ok y) : y.inv p := by
  have hne : x.fsm ≠ .delivering := by simp [hf]
  obtain ⟨hlive, hmax, hidx, hwritten, -⟩ := Slot.inv_readingFrames h hl hf
  have ⟨_, hfields, ⟨hwf, hbelow⟩, _⟩ := h
  rcases x.acceptFrame_cases p b y hy with ⟨rfl, -⟩ | ⟨l, m, -, hm, hacc⟩
  · exact Slot.inv_abandon _ h hl hne
  · have hpay : PayBuf.wf m ∧ ∀ c ∈ m, c.1 < 4 * p.maxFrames.val :=
      ⟨memWriteAll_wf p _ _ _ _ hm hwf, memWriteAll_below p _ _ _ _ hm hbelow⟩
    have hw := memWriteAll_writtenBelow hm hwritten
    have hnext : (x.fidx + 1).val = x.fidx.val + 1 :=
      Fin.val_add_one_of_lt (Fin.lt_def.mpr (by have := p.maxFrames.isLt; rw [Fin.val_last]; omega))
    rcases hacc with ⟨hn, rfl⟩ | ⟨hn, rfl⟩
    · exact Slot.inv_of_readerOnly h hl hne rfl (Slot.readerInv_of_delivering rfl hlive hmax (hn ▸ hw)) hfields hpay
    · refine Slot.inv_of_readerOnly h hl hne rfl (Slot.readerInv_of_readingFrames hf hlive hmax ?_ ?_ nofun) hfields hpay
      · simp only [hnext]; omega
      · simpa only [hnext] using hw

/-- The bytes captured so far stay clean where the ninth header byte is stored (R193). -/
theorem Slot.inv_setHeaderLast (b : Byte) (h : x.inv p) (hl : x.life = .running) (hf : x.fsm = .readingHeader)
    (hn : x.hcnt.val = 8) : ({ x with hbuf := x.hbuf.set 8 b } : Slot).inv p := by
  obtain ⟨hlive, hclean⟩ := Slot.inv_readingHeader h hl hf
  have ⟨_, hfields, hpay, _⟩ := h
  exact Slot.inv_of_readerOnly h hl (by simp [hf]) rfl
    (Slot.readerInv_of_readingHeader hf hlive (hclean.set_above (by decide) hn.le)) hfields hpay

/-- The bytes captured so far stay clean where the sixth frame byte is stored (R198). -/
theorem Slot.inv_setFrameLast (b : Byte) (h : x.inv p) (hl : x.life = .running) (hf : x.fsm = .readingFrames)
    (hn : x.fpos.val = 5) : ({ x with fbuf := x.fbuf.set 5 b } : Slot).inv p := by
  obtain ⟨hlive, hmax, hidx, hwritten, hclean⟩ := Slot.inv_readingFrames h hl hf
  have ⟨_, hfields, hpay, _⟩ := h
  exact Slot.inv_of_readerOnly h hl (by simp [hf]) rfl
    (Slot.readerInv_of_readingFrames hf hlive hmax hidx hwritten (hclean.set_above (by decide) hn.le)) hfields hpay

/-- Every move of an instance keeps the invariant of its slot. -/
theorem SlotMove.inv {a : Answers} {n k d : Nat} {i : Instr} {es : List Effect} (hm : SlotMove p a n k x i y es d)
    (h : x.inv p) : y.inv p := by
  have ⟨hread, hfields, hpay, hcall, hlife, hwait⟩ := h
  have ⟨_, hrun, hdown, _⟩ := hlife
  cases hm
  case huntMarker hl hf =>
    obtain ⟨hhunt, -⟩ := hread hl
    exact Slot.inv_of_readerOnly h hl (by simp [hf]) rfl (Slot.readerInv_of_readingHeader rfl (hhunt hf) nofun) hfields hpay
  case huntSkip => exact h
  case hdrByte hl hf hb hn =>
    obtain ⟨hlive, hclean⟩ := Slot.inv_readingHeader h hl hf
    have hnext : (x.hcnt + 1).val = x.hcnt.val + 1 := Fin.val_add_one_of_lt (Fin.lt_def.mpr hn)
    refine Slot.inv_of_readerOnly h hl (by simp [hf]) rfl (Slot.readerInv_of_readingHeader hf hlive ?_) hfields hpay
    exact hnext ▸ hclean.set_next x.hcnt.isLt hb
  case hdrLast hl hf hb hn =>
    exact Slot.inv_acceptHeader _ _ (Slot.inv_setHeaderLast _ h hl hf hn) hl hf hn
  case hdrAbort hl hf hb => exact Slot.inv_abandon _ h hl (by simp [hf])
  case frmByte hl hf hb hn =>
    obtain ⟨hlive, hmax, hidx, hwritten, hclean⟩ := Slot.inv_readingFrames h hl hf
    have hnext : (x.fpos + 1).val = x.fpos.val + 1 := Fin.val_add_one_of_lt (Fin.lt_def.mpr hn)
    refine Slot.inv_of_readerOnly h hl (by simp [hf]) rfl
      (Slot.readerInv_of_readingFrames hf hlive hmax hidx hwritten ?_) hfields hpay
    exact hnext ▸ hclean.set_next x.fpos.isLt hb
  case frmAbort hl hf hb hn => exact Slot.inv_abandon _ h hl (by simp [hf])
  case frmLast hl hf hn hy => exact Slot.inv_acceptFrame (Slot.inv_setFrameLast _ h hl hf hn) hl hf hy
  case rdEos hl hf => exact Slot.inv_fatal _ h hl hf
  case rdErr hl hf => exact Slot.inv_fatal _ h hl hf
  case deliver hl hf hc => exact ⟨hread, hfields, hpay, ⟨fun _ => ⟨hl, hf⟩, nofun, nofun⟩, hlife, hwait⟩
  case deliverRet hl hf hc hj =>
    refine ⟨Slot.readerInv_of_hunting rfl rfl, nofun, ⟨.nil, nofun⟩, ⟨nofun, nofun, fun e => absurd hj e⟩, ?_, hwait⟩
    simpa [Slot.lifeInv, hl] using hrun hl
  case tdRestore hl ht =>
    obtain ⟨hlive, hrestore, -⟩ := hdown hl
    refine ⟨hread, hfields, hpay, ?_, ?_, hwait⟩
    · simpa [Slot.callInv, hl, ht] using hcall
    · simpa [Slot.lifeInv, hl, hlive] using hrestore ht
  case tdClose hl ht =>
    obtain ⟨hlive, -, hclose, -⟩ := hdown hl
    refine ⟨hread, hfields, hpay, ?_, ?_, hwait⟩
    · obtain ⟨hpkt, -, hjoin⟩ := hcall
      exact ⟨hpkt, fun _ => ⟨hl, rfl⟩, hjoin⟩
    · obtain ⟨-, hcfg, hdone⟩ := hclose ht
      simp [Slot.lifeInv, hl, hlive, hcfg, hdone]
  case tdSentinel hl ht hd hc =>
    exact ⟨hread, hfields, hpay, ⟨nofun, fun _ => ⟨hl, ht⟩, nofun⟩, hlife, hwait⟩
  case tdSentinelRet hl ht hc hj =>
    obtain ⟨hlive, -, -, hsentinel, -⟩ := hdown hl
    refine ⟨hread, hfields, hpay, ⟨nofun, nofun, fun e => absurd hj e⟩, ?_, hwait⟩
    obtain ⟨hdev, hcfg, -⟩ := hsentinel ht
    simp [Slot.lifeInv, hl, hlive, hdev, hcfg]
  case tdRelease hl ht =>
    obtain ⟨hlive, -, -, -, hrelease⟩ := hdown hl
    refine ⟨nofun, ?_, ⟨.nil, nofun⟩, ?_, ?_, ?_⟩
    · simp [Slot.fieldsInv, hlive]
    · simpa [Slot.callInv, hl, ht] using hcall
    · simpa [Slot.lifeInv, hlive] using hrelease ht
    · simpa [Slot.waitInv, hl] using hwait
  case acceptHeader hl hf hb hn => exact Slot.inv_acceptHeader _ _ h hl hf hn
  case acceptFrame hl hf hn hy => exact Slot.inv_acceptFrame h hl hf hy
  case abandon c hl hf => exact Slot.inv_abandon _ h hl (by cases c <;> simp [hf, raisedIn])
  case fatal hl hf => exact Slot.inv_fatal _ h hl hf
end

/-- The slot an instance's turn runs on differs from the slot before in its input stream only (R71, R204). -/
theorem InstFetch.exists_stream {m : Byte} {k : Nat} {x y : Slot} {r : Bool} {i : Instr} (h : InstFetch m k x r i y) :
    ∃ str, y = { x with stream := str } := by
  cases h <;> exact ⟨_, rfl⟩

/-! ### The slot invariant along the host operations -/

section
variable {p : Params} {x y : Slot}

/-- A change of what waits on a slot keeps its invariant where a handler waits only inside its call (R334) and nothing waits
that must not (R253, R326). -/
theorem Slot.inv_of_waitsOnly (h : x.inv p) (hy : x.waitsOnly y) (hc : y.callJoin ≠ none → x.call ≠ none) (hw : y.waitInv) :
    y.inv p := by
  obtain ⟨hread, hfields, hpay, ⟨hpkt, hsent, -⟩, hlife, -⟩ := h
  rw [hy] at hc hw ⊢
  exact ⟨hread, hfields, hpay, ⟨hpkt, hsent, hc⟩, hlife, hw⟩

theorem Slot.inv_resumeCall (hd : Nat) (h : x.inv p) : (x.resumeCall hd).inv p := by
  have ⟨_, _, _, ⟨_, _, hjoin⟩, _, hwait⟩ := h
  refine Slot.inv_of_waitsOnly h (Slot.resumeCall_waitsOnly hd x) ?_ (by simpa [Slot.waitInv] using hwait)
  rw [Slot.resumeCall_callJoin]
  split
  · exact fun e => absurd rfl e
  · exact hjoin

/-- A START that fails after latching its parameters frees the slot it took (R248, log 22). -/
theorem Slot.inv_startFreed (c : InstCfg) (dev : DevHandle) (q : DevConfig) (r : Bool) (h : x.inv p) (hl : x.life = .free) :
    ({ x.prepared c dev q r with cfgChanged := false, devOpen := false, life := .free } : Slot).inv p := by
  have hcall := Slot.inv_call_none h (by simp [hl]) (by simp [hl])
  obtain ⟨-, -, hpay, -, ⟨hfree, -⟩, hwait, -⟩ := h
  obtain ⟨-, -, hlive⟩ := hfree hl
  obtain ⟨hok, hjoin⟩ := hwait hl
  exact Slot.inv_of_free rfl rfl rfl hlive hpay hcall hok hjoin

/-- A START that launches leaves an instance that hunts with nothing live, called or waiting but its own result (R242). -/
theorem Slot.inv_launched (c : InstCfg) (dev : DevHandle) (q : DevConfig) (r : Bool) (n : Nat) (str : List RdResult)
    (h : x.inv p) (hr : r = true → c.raw = true) : ((x.prepared c dev q r).launch n str).inv p := by
  obtain ⟨-, -, hpay, -⟩ := h
  exact ⟨Slot.readerInv_of_hunting rfl rfl, nofun, hpay, ⟨nofun, nofun, fun e => absurd rfl e⟩,
    ⟨nofun, fun _ => ⟨rfl, rfl, hr⟩, nofun, nofun⟩, nofun, nofun⟩

/-- A JOIN that answers frees a STOPPED slot (R252). -/
theorem Slot.inv_joined (h : x.inv p) (hl : x.life = .stopped) (hok : x.okPending = false) (hj : x.joinWait = false) :
    ({ x with life := .free } : Slot).inv p := by
  have hcall := Slot.inv_call_none h (by simp [hl]) (by simp [hl])
  obtain ⟨-, -, hpay, -, ⟨-, -, -, hstop⟩, -⟩ := h
  obtain ⟨hlive, hdev, hcfg, -⟩ := hstop hl
  exact Slot.inv_of_free rfl hdev hcfg hlive hpay hcall hok hj

end

/-! ### The slot invariant along the steps -/

section
variable {s t : State}

/-- Every slot, listed or not, has its invariant. -/
theorem State.slotsInv_slot (h : s.slotsInv) (k : Nat) : (s.slot k).inv s.params :=
  s.slot_of_forall _ h (Slot.inv_reset _) k

/-- Writing a slot that has its invariant keeps that of every slot. -/
theorem State.slotsInv_setSlot {k : Nat} {x : Slot} (h : s.slotsInv) (hx : x.inv s.params) : (s.setSlot k x).slotsInv := by
  intro y hy
  rcases mem_setSlotAt hy with rfl | hmem | rfl
  · exact hx
  · exact h y hmem
  · exact Slot.inv_reset _

theorem State.slotsInv_resumeCalls (hd : Nat) (h : s.slotsInv) : (s.resumeCalls hd).slotsInv := by
  intro y hy
  obtain ⟨x, hx, rfl⟩ := List.mem_map.mp hy
  exact Slot.inv_resumeCall hd (h x hx)

/-- The handler whose call is in progress in slot `k` waits in a JOIN (R334). -/
theorem State.slotsInv_holdCall {k : Nat} (hd : Nat) (h : s.slotsInv) (hc : (s.slot k).call ≠ none) :
    (s.holdCall k hd).slotsInv := by
  have hk := State.slotsInv_slot h k
  have ⟨_, _, _, _, _, hwait⟩ := hk
  exact State.slotsInv_setSlot h (Slot.inv_of_waitsOnly hk rfl (fun _ => hc) hwait)

/-- A JOIN that waits looks again, and waits no longer (R308). -/
theorem State.slotsInv_wake {k : Nat} (hd : Nat) (h : s.slotsInv) :
    ((s.setSlot k { s.slot k with joinWait := false }).resumeCalls hd).slotsInv := by
  have hk := State.slotsInv_slot h k
  have ⟨_, _, _, ⟨_, _, hjoin⟩, _, hfree, _⟩ := hk
  exact State.slotsInv_resumeCalls hd (State.slotsInv_setSlot h
    (Slot.inv_of_waitsOnly hk rfl hjoin ⟨fun hl => ⟨(hfree hl).1, rfl⟩, nofun⟩))

theorem State.slotsInv_startReturns (hd : Nat) (h : s.slotsInv) : (s.startReturns hd).slotsInv := by
  rcases s.startReturns_cases hd with e | ⟨k, -, -, e⟩ <;> rw [e]
  · exact h
  · have hk := State.slotsInv_slot h k
    have ⟨_, _, _, ⟨_, _, hjoin⟩, _, hfree, _⟩ := hk
    exact State.slotsInv_setSlot h (Slot.inv_of_waitsOnly hk rfl hjoin ⟨fun hl => ⟨rfl, (hfree hl).2⟩, fun _ => rfl⟩)

theorem State.slotsInv_join {hd : Nat} (he : exec (.join hd) s = .next t) (h : s.slotsInv) : t.slotsInv := by
  obtain ⟨k, hfound, hok, hj, ⟨hl, rfl⟩ | ⟨-, rfl⟩⟩ := execJoin_next he
  · exact State.slotsInv_setSlot h (Slot.inv_joined (State.slotsInv_slot h k) hl hok hj)
  · obtain ⟨-, hlive, -⟩ := s.findHandle_some hd k hfound
    have hk := State.slotsInv_slot h k
    have ⟨_, _, _, ⟨_, _, hjoin⟩, _⟩ := hk
    exact State.slotsInv_setSlot h (Slot.inv_of_waitsOnly hk rfl hjoin ⟨fun hl => absurd hl hlive, fun _ => hok⟩)

theorem State.slotsInv_start {path : DevPath} {raw : Bool} {hr : Option HandlerRef} {arg : HandlerArg}
    (he : exec (.start path raw hr arg) s = .next t) (h : s.slotsInv) : t.slotsInv := by
  obtain ⟨es, -, rfl | ⟨k, c, dev, q, r, hk, hraw, rfl | rfl⟩⟩ := execStart_next he
  · exact h
  · obtain ⟨hl, -⟩ := State.allocSlot_some s k hk
    exact State.slotsInv_setSlot h (Slot.inv_startFreed c dev q r (State.slotsInv_slot h k) hl)
  · exact State.slotsInv_setSlot h (Slot.inv_launched c dev q r _ _ (State.slotsInv_slot h k) hraw)

/-- What comes from outside the block is START, JOIN, or an operation that writes `REGISTERED`, the function port and the draw
counter only. -/
theorem exec_fromOutside {i : Instr} (ho : fromOutside i = true) (he : exec i s = .next t) :
    (∃ path raw hr arg, i = .start path raw hr arg) ∨ (∃ hd, i = .join hd) ∨
      (t.slots = s.slots ∧ t.params = s.params ∧ (s.registered = true → t.registered = true)) := by
  cases i <;> simp only [fromOutside, reduceCtorEq] at ho
  case start path raw hr arg => exact .inl ⟨path, raw, hr, arg, rfl⟩
  case join hd => exact .inr (.inl ⟨hd, rfl⟩)
  case valid span =>
    change execValid span s = _ at he
    unfold execValid at he
    split at he <;> cases he <;> exact .inr (.inr ⟨rfl, rfl, id⟩)
  case register => cases he; exact .inr (.inr ⟨rfl, rfl, fun _ => rfl⟩)
  all_goals cases he; exact .inr (.inr ⟨rfl, rfl, id⟩)

theorem State.slotsInv_inst {k : Nat} {a : Answers} {rest : List Turn} (h : s.slotsInv) (hin : s.inputs = .inst k a :: rest)
    (hs : step s = .next t) : t.slotsInv := by
  rcases step_inst hin hs with rfl | ⟨i, x, y, es, d, hf, hm, rfl⟩
  · exact h
  · obtain ⟨str, rfl⟩ := hf.exists_stream
    exact State.slotsInv_setSlot h (hm.inv (State.slotsInv_slot h k))

/-- Settles O51, by the turn the step takes: each operation keeps the invariant of the slot it writes, and an instance's move does
(`SlotMove.inv`). -/
theorem stepKeepsTheSlotInvariant : Obligations.StepKeepsTheSlotInvariant := by
  intro s t h hs
  rcases step_cases hs with ⟨-, rfl⟩ | ⟨rest, -, rfl⟩ | ⟨i, a, rest, -, rfl | ⟨ho, he⟩⟩ | ⟨hd, rest, -, rfl⟩ |
    ⟨hd, rest, -, rfl | ⟨k, -, -, -, he⟩⟩ | ⟨k, hd, rest, -, rfl | ⟨hc, -, ⟨-, he⟩ | ⟨-, he⟩⟩⟩ | ⟨k, a, rest, hin⟩
  · exact h
  · simp [State.slotsInv]
  · exact h
  · rcases exec_fromOutside ho he with ⟨path, raw, hr, arg, rfl⟩ | ⟨hd, rfl⟩ | ⟨hslots, hparams, -⟩
    · exact State.slotsInv_start he h
    · exact State.slotsInv_join he h
    · unfold State.slotsInv
      rwa [hslots, hparams]
  · exact State.slotsInv_startReturns hd h
  · exact h
  · exact State.slotsInv_join he (State.slotsInv_wake hd h)
  · exact h
  · exact State.slotsInv_join he (State.slotsInv_holdCall hd h hc)
  · exact State.slotsInv_join he h
  · exact State.slotsInv_inst h hin hs

/-! ### The lifecycle and the latched registers along the steps -/

/-- A host operation that goes on writes no parameter and does not clear `REGISTERED`. -/
theorem exec_fromOutside_frame {i : Instr} (ho : fromOutside i = true) (he : exec i s = .next t) :
    t.params = s.params ∧ (s.registered = true → t.registered = true) := by
  rcases exec_fromOutside ho he with ⟨path, raw, hr, arg, rfl⟩ | ⟨hd, rfl⟩ | ⟨-, hframe⟩
  · obtain ⟨es, -, rfl | ⟨k, c, dev, q, r, -, -, rfl | rfl⟩⟩ := execStart_next he <;> exact ⟨rfl, id⟩
  · obtain ⟨k, -, -, -, ⟨-, rfl⟩ | ⟨-, rfl⟩⟩ := execJoin_next he <;> exact ⟨rfl, id⟩
  · exact hframe

theorem State.startReturns_frame (s : State) (hd : Nat) :
    (s.startReturns hd).params = s.params ∧ (s.registered = true → (s.startReturns hd).registered = true) := by
  rcases s.startReturns_cases hd with e | ⟨k, -, -, e⟩ <;> rw [e] <;> exact ⟨rfl, id⟩

/-- No step but hardware reset writes a parameter or clears `REGISTERED`, and hardware reset writes no parameter (R87, R48). -/
theorem step_frame (hs : step s = .next t) :
    t.params = s.params ∧
      ((s.registered = true → t.registered = true) ∨ ∃ rest, s.inputs = .hardwareReset :: rest) := by
  rcases step_cases hs with ⟨-, rfl⟩ | ⟨rest, hin, rfl⟩ | ⟨i, a, rest, -, rfl | ⟨ho, he⟩⟩ | ⟨hd, rest, -, rfl⟩ |
    ⟨hd, rest, -, rfl | ⟨k, -, -, -, he⟩⟩ | ⟨k, hd, rest, -, rfl | ⟨-, -, ⟨-, he⟩ | ⟨-, he⟩⟩⟩ | ⟨k, a, rest, hin⟩
  · exact ⟨rfl, .inl id⟩
  · exact ⟨rfl, .inr ⟨rest, hin⟩⟩
  · exact ⟨rfl, .inl id⟩
  · exact (exec_fromOutside_frame ho he).imp id .inl
  · exact (State.startReturns_frame _ hd).imp id .inl
  · exact ⟨rfl, .inl id⟩
  · exact (exec_fromOutside_frame rfl he).imp id .inl
  · exact ⟨rfl, .inl id⟩
  · exact (exec_fromOutside_frame rfl he).imp id .inl
  · exact (exec_fromOutside_frame rfl he).imp id .inl
  · obtain rfl | ⟨i, x, y, es, d, -, -, rfl⟩ := step_inst hin hs <;> exact ⟨rfl, .inl id⟩

end

section
variable {x y : Slot} {p : Params} {a : Answers} {n k d : Nat} {i : Instr} {es : List Effect}

/-- What START latched stays, and the sentinel's bit is not cleared (R245, R44). -/
abbrev Slot.keepsLatched (x y : Slot) : Prop :=
  (y.cfg = x.cfg ∧ y.dev = x.dev ∧ y.handle = x.handle) ∧ (x.sentinelDone = true → y.sentinelDone = true)

/-- The reader's registers are neither the lifecycle state nor latched ones. -/
theorem Slot.readerOnly_keepsLatched (h : x.readerOnly y) : y.life = x.life ∧ x.keepsLatched y := by
  rw [h]
  exact ⟨rfl, ⟨rfl, rfl, rfl⟩, id⟩

/-- All a move of an instance can do to its lifecycle state: nothing; from RUNNING to TEARDOWN (R287); from TEARDOWN to STOPPED
(R268). Only the last may write what START latched. -/
theorem SlotMove.life_cases (hm : SlotMove p a n k x i y es d) :
    (y.life = x.life ∧ x.keepsLatched y) ∨
    (x.life = .running ∧ y.life = .teardown ∧ x.keepsLatched y) ∨
    (x.life = .teardown ∧ y.life = .stopped ∧ (x.sentinelDone = true → y.sentinelDone = true)) := by
  cases hm
  case hdrLast => exact .inl (Slot.readerOnly_keepsLatched (Slot.acceptHeader_readerOnly ..))
  case acceptHeader => exact .inl (Slot.readerOnly_keepsLatched (Slot.acceptHeader_readerOnly _ _ x x.hbuf))
  case frmLast hy => exact .inl (Slot.readerOnly_keepsLatched (Slot.acceptFrame_readerOnly hy))
  case acceptFrame hy => exact .inl (Slot.readerOnly_keepsLatched (Slot.acceptFrame_readerOnly (fb := x.fbuf) hy))
  case rdEos hl _ => exact .inr (.inl ⟨hl, rfl, ⟨rfl, rfl, rfl⟩, id⟩)
  case rdErr hl _ => exact .inr (.inl ⟨hl, rfl, ⟨rfl, rfl, rfl⟩, id⟩)
  case fatal hl _ => exact .inr (.inl ⟨hl, rfl, ⟨rfl, rfl, rfl⟩, id⟩)
  case tdSentinelRet => exact .inl ⟨rfl, ⟨rfl, rfl, rfl⟩, fun _ => rfl⟩
  case tdRelease hl _ => exact .inr (.inr ⟨hl, rfl, id⟩)
  all_goals exact .inl ⟨rfl, ⟨rfl, rfl, rfl⟩, id⟩

end

/-- Settles O55: only hardware reset, a START that launches, a JOIN that answers and an instance's own move write `S.LIFE`. -/
theorem lifeChangesOnlyInItsOrder : Obligations.LifeChangesOnlyInItsOrder := by
  intro s t k hs
  rcases step_slot hs k with ⟨rest, hin, e⟩ | ⟨hl, c, dev, q, r, n, str, -, e | e⟩ | ⟨hl, y, -, e⟩ |
    ⟨a, rest, i, x, es, d, -, hf, hm⟩ | e
  · exact .inr (.inr (.inr (.inr (.inr ⟨by rw [e]; rfl, rest, hin⟩))))
  · exact .inl (by rw [e, hl])
  · exact .inr (.inl ⟨hl, by rw [e]; rfl⟩)
  · exact .inr (.inr (.inr (.inr (.inl ⟨hl, by rw [e]⟩))))
  · obtain ⟨str, rfl⟩ := hf.exists_stream
    rcases hm.life_cases with ⟨hl, -⟩ | ⟨hl, hl', -⟩ | ⟨hl, hl', -⟩
    · exact .inl hl
    · exact .inr (.inr (.inl ⟨hl, hl'⟩))
    · exact .inr (.inr (.inr (.inl ⟨hl, hl'⟩)))
  · exact .inl (by rw [e])

/-- While an instance exists a step keeps what START latched and the sentinel's bit, but that TD_RELEASE, which stops the instance,
keeps only the bit: START takes a FREE slot, and JOIN and hardware reset leave one. -/
theorem step_keepsLatched {s t : State} {k : Nat} (hs : step s = .next t) (hl : (s.slot k).live) (hl' : (t.slot k).live) :
    (s.slot k).keepsLatched (t.slot k) ∨
      ((t.slot k).life = .stopped ∧ ((s.slot k).sentinelDone = true → (t.slot k).sentinelDone = true)) := by
  rcases step_slot hs k with ⟨rest, -, e⟩ | ⟨hf, -⟩ | ⟨-, y, -, e⟩ | ⟨a, rest, i, x, es, d, -, hf, hm⟩ | e
  · exact absurd (by rw [e]; rfl) hl'
  · exact absurd hf hl
  · exact absurd (by rw [e]) hl'
  · obtain ⟨str, rfl⟩ := hf.exists_stream
    rcases hm.life_cases with ⟨-, hkeep⟩ | ⟨-, -, hkeep⟩ | ⟨-, hstop, hdone⟩
    · exact .inl hkeep
    · exact .inl hkeep
    · exact .inr ⟨hstop, hdone⟩
  · exact .inl (by rw [e]; exact ⟨⟨rfl, rfl, rfl⟩, id⟩)

/-- Settles O56, by `step_frame` for the parameters and `REGISTERED`, and by `step_keepsLatched` for the registers of a slot. -/
theorem latchedRegistersStay : Obligations.LatchedRegistersStay := by
  intro s t hs
  obtain ⟨hparams, hreg⟩ := step_frame hs
  refine ⟨hparams, fun h1 h0 => hreg.resolve_left fun h => ?_, fun k hl hl' => ?_, fun k hl hl' hd => ?_⟩
  · simp [h h1] at h0
  · have hlive : (s.slot k).live := by rcases hl with e | e <;> simp [e]
    have hlive' : (t.slot k).live := by rcases hl' with e | e <;> simp [e]
    rcases step_keepsLatched hs hlive hlive' with ⟨hlatched, -⟩ | ⟨hstop, -⟩
    · exact hlatched
    · simp [hstop] at hl'
  · rcases step_keepsLatched hs hl hl' with ⟨-, hdone⟩ | ⟨-, hdone⟩ <;> exact hdone hd

/-- Settles O48. -/
theorem resetLeavesEverySlotFree : Obligations.ResetLeavesEverySlotFree :=
  ⟨rfl, fun _ => ⟨rfl, rfl, rfl, rfl, rfl⟩⟩

/-- Settles O50: no slot is listed, and nothing has been done. -/
theorem resetMeetsTheInvariants : Obligations.ResetMeetsTheInvariants := by
  simp [Obligations.ResetMeetsTheInvariants, State.inv, State.slotsInv, State.handlesInv, State.sentinelInv, State.reset]

end Sys2Proof.Machine
end

section

/-!
PROOFS. The memory family (20_memory.md): what the handler's read answers in its packet call and outside it (O30).
-/

namespace Sys2Proof.Machine

/-- A payload byte that was written reads as written, whatever the free byte of the draw (R73). -/
@[simp] theorem memRead_of_read {m : PayBuf} {i : Nat} {v : Byte} (n : Nat) (h : PayBuf.read m i = some v) :
    memRead n m i = v := by
  simp [memRead, h]

/-- In the packet call an index of the packet's own payload gives the payload buffer's byte (R73, R84). -/
theorem handlerRead_in_call {s : State} {k i : Nat} (hc : (s.slot k).call = some .packet)
    (hi : i < 4 * (s.slot k).pkt.nfr.toNat) : handlerRead s k i = .ok (memRead s.draw (s.slot k).pay i) := by
  rw [handlerRead, if_pos hc, if_pos hi]

/-- Outside the packet call there is no packet to read (R271, U4; log 26). -/
theorem handlerRead_outside_call {s : State} {k : Nat} (i : Nat) (hc : (s.slot k).call ≠ some .packet) :
    handlerRead s k i = .error .handlerReadOutsideCall := by
  rw [handlerRead, if_neg hc]

/-- Settles O30: in the call the read is the payload buffer's, where the byte stands as written. -/
theorem handlerReadsThePayloadDuringItsCall : Obligations.HandlerReadsThePayloadDuringItsCall := by
  refine ⟨fun s k i v hc hi hv => ?_, fun s k i hc => handlerRead_outside_call i hc⟩
  rw [handlerRead_in_call hc hi, memRead_of_read s.draw hv]

end Sys2Proof.Machine
end

section

/-!
PROOFS. The encoding family (30_encoding.md): the byte classes (O6), the event map (O1), the header codec (O2), a few words
written out (O5), and the events of a slot without a running instance (O31).
-/

namespace Sys2Proof

/-! ### Byte classes and the event map -/

/-- `MARKER_VALUE` has its top bit set (R102). -/
@[simp] theorem Params.topBit_marker (p : Params) : topBit p.marker = true :=
  BitVec.getLsbD_append (x := 1#1) (y := p.markerLow) (i := 7)

/-- A byte with top bit 0 is CLEAN whatever the marker value, and no other is (R100). -/
theorem byteClass_eq_clean_iff (m b : Byte) : byteClass m b = .clean ↔ topBit b = false := by
  by_cases hb : topBit b = false
  · simp [byteClass, hb]
  · rcases eq_or_ne b m with rfl | hm <;> simp_all [byteClass]

/-- A byte with top bit 1 is HIGH exactly where it is not the marker value (R100). -/
theorem byteClass_eq_high_iff (m b : Byte) : byteClass m b = .high ↔ topBit b = true ∧ b ≠ m := by
  by_cases hb : topBit b = false
  · simp [byteClass, hb]
  · rcases eq_or_ne b m with rfl | hm <;> simp_all [byteClass]

/-- A marker value with its top bit set is the one MARKER byte (R100). -/
theorem byteClass_eq_marker_iff {m : Byte} (hm : topBit m = true) (b : Byte) : byteClass m b = .marker ↔ b = m := by
  by_cases hb : b = m
  · simp [byteClass, hb, hm]
  · cases hc : topBit b <;> simp [byteClass, hb, hc]

/-- Settles O6. -/
theorem byteClassIsTheTable : Obligations.ByteClassIsTheTable := fun p b =>
  ⟨p.topBit_marker, byteClass_eq_marker_iff p.topBit_marker b, byteClass_eq_high_iff p.marker b,
    byteClass_eq_clean_iff p.marker b⟩

/-- No event is selected by a read in DELIVERING (R115, R205). -/
theorem eventOf_delivering (m : Byte) {q : Sequencer} (k : Nat) (r : RdResult) (hq : q.fsm = .delivering) :
    eventOf m q k r = .error .noReadWhileDelivering := by
  cases r <;> simp [eventOf, hq]

/-- In the reading states every read result selects an event (R114). -/
theorem exists_eventOf (m : Byte) {q : Sequencer} (k : Nat) (r : RdResult) (hq : q.fsm ≠ .delivering) :
    ∃ i, eventOf m q k r = .ok i := by
  cases r with
  | eos => exact ⟨_, if_neg hq⟩
  | err e => exact ⟨_, if_neg hq⟩
  | byte b =>
    unfold eventOf
    cases hf : q.fsm <;> simp only
    case hunting => split <;> exact ⟨_, rfl⟩
    case readingHeader => split_ifs <;> exact ⟨_, rfl⟩
    case readingFrames => split_ifs <;> exact ⟨_, rfl⟩
    case delivering => exact absurd hf hq

/-- Settles O1, by the read result, the reader state and the tests of that state's rows. -/
theorem eventMapSelectsExactlyItsRow : Obligations.EventMapSelectsExactlyItsRow := by
  refine ⟨fun m q k r i => ?_, fun m q k r => ⟨?_, exists_eventOf m k r⟩⟩
  · cases r with
    | eos => by_cases hq : q.fsm = .delivering <;> simp [eventOf, hq, eq_comm (b := i)]
    | err e => by_cases hq : q.fsm = .delivering <;> simp [eventOf, hq, eq_comm (b := i)]
    | byte b =>
      cases hf : q.fsm with
      | hunting => by_cases hb : b = m <;> simp [eventOf, hf, hb, eq_comm (b := i)]
      | readingHeader =>
        have hcnt := q.hcnt.isLt
        cases hb : topBit b
        · by_cases hlt : q.hcnt.val < 8
          · simp [eventOf, hf, hb, hlt, hlt.ne, eq_comm (b := i)]
          · simp [eventOf, hf, hb, show q.hcnt.val = 8 by omega, eq_comm (b := i)]
        · simp [eventOf, hf, hb, eq_comm (b := i)]
      | readingFrames =>
        have hpos := q.fpos.isLt
        by_cases hlt : q.fpos.val < 5
        · cases hb : topBit b <;> simp [eventOf, hf, hb, hlt, hlt.ne, eq_comm (b := i)]
        · simp [eventOf, hf, show q.fpos.val = 5 by omega, eq_comm (b := i)]
      | delivering => simp [eventOf, hf]
  · rintro ⟨i, hi⟩ hq
    simp [eventOf_delivering m k r hq] at hi

/-! ### Wire bytes of the header fields -/

/-- A span validates exactly where its last byte is the checksum of those before (R148). -/
@[simp] theorem valid_append_singleton (s : List Byte) (c : Byte) : valid (s ++ [c]) = (ck s == c) := by
  simp [valid]

/-- A checksum is a clean byte (R143, R147). -/
@[simp] theorem topBit_ck (s : List Byte) : topBit (ck s) = false := by
  simp [topBit, ck]

/-- A 16-bit field is its high wire byte beside its low one, `{hi, lo}` (R75, R107). -/
theorem assemble_eq_append (lo hi : Byte) : assemble lo hi = hi ++ lo := by
  rw [assemble, BitVec.or_comm]
  exact congrArg (· ||| lo.setWidth 16) (BitVec.shiftLeftZeroExtend_eq (x := hi) (n := 8)).symm

@[simp] theorem lowByte_assemble (lo hi : Byte) : lowByte (assemble lo hi) = lo := by
  rw [assemble_eq_append, lowByte]
  exact BitVec.extractLsb'_append_eq_right

@[simp] theorem highByte_assemble (lo hi : Byte) : highByte (assemble lo hi) = hi := by
  rw [assemble_eq_append, highByte]
  exact BitVec.extractLsb'_append_eq_left

/-- A 16-bit field is put together again from its two wire bytes (R107, R117). -/
@[simp] theorem assemble_lowByte_highByte (v : Half) : assemble (lowByte v) (highByte v) = v := by
  rw [assemble_eq_append]
  exact BitVec.extractLsb'_append_extractLsb'

/-- A 16-bit field is one wire bytes can carry exactly where its two wire bytes are clean (R47). -/
theorem wireHalf_eq (v : Half) : wireHalf v = (!topBit (lowByte v) && !topBit (highByte v)) := by
  simp [wireHalf, topBit, lowByte, highByte]

/-- Fields are in the wire's range exactly where the eight header bytes that carry them are clean (R47, R117). -/
theorem wireFields_iff (p : PktFields) : wireFields p = true ↔ ∀ b ∈ hdrData p, topBit b = false := by
  simp [wireFields, wireHalf_eq, hdrData, and_assoc]

/-! ### The header codec -/

/-- A header's bytes: eight that carry the fields, and the checksum (R105). -/
theorem header_toList (h : Vector Byte 9) :
    h.toList = [h[0], h[1], h[2], h[3], h[4], h[5], h[6], h[7]] ++ [h[8]] := by
  refine List.ext_getElem (by simp) fun i hi _ => ?_
  rw [Vector.length_toList] at hi
  interval_cases i <;> rfl

theorem hdrBytes_toList (p : PktFields) : (hdrBytes p).toList = hdrData p ++ [ck (hdrData p)] := rfl

/-- `HDR` writes nine clean bytes exactly where its arguments are in the wire's range: the checksum always is one (R117). -/
theorem hdrBytes_clean_iff (p : PktFields) : (∀ b ∈ (hdrBytes p).toList, topBit b = false) ↔ wireFields p = true := by
  simp [hdrBytes_toList, wireFields_iff, or_imp, forall_and]

/-- What `HDR` writes validates, and its fields are read back, whatever they are (R117, R160). -/
theorem headerDecode_hdrBytes (p : PktFields) : headerDecode (hdrBytes p) = some p := by
  rw [headerDecode, hdrBytes_toList, valid_append_singleton, beq_self_eq_true, if_pos rfl]
  simp [hdrBytes]

/-- A header that decodes is the `HDR` of the fields read from it: its ninth byte is the checksum of the eight that carry
them (R117, R160). -/
theorem hdrBytes_of_headerDecode {h : Vector Byte 9} {p : PktFields} (hd : headerDecode h = some p) : hdrBytes p = h := by
  unfold headerDecode at hd
  split at hd
  · next hv =>
    cases hd
    rw [header_toList, valid_append_singleton, beq_iff_eq] at hv
    rw [← Vector.toList_inj, hdrBytes_toList, header_toList h, ← hv]
    simp [hdrData]
  · cases hd

/-- The header decoder and the `HDR` encoder are inverse to each other on all fields and all nine bytes (R117, R160). -/
theorem headerDecode_eq_some_iff {h : Vector Byte 9} {p : PktFields} : headerDecode h = some p ↔ hdrBytes p = h :=
  ⟨hdrBytes_of_headerDecode, fun e => e ▸ headerDecode_hdrBytes p⟩

/-- Settles O2, by `headerDecode_eq_some_iff` and `hdrBytes_clean_iff`. -/
theorem headerDecodeAndHdrAreInverse : Obligations.HeaderDecodeAndHdrAreInverse := by
  refine ⟨fun p hp => ⟨headerDecode_hdrBytes p, (hdrBytes_clean_iff p).mpr hp⟩, fun h p hc hd => ?_⟩
  obtain rfl := hdrBytes_of_headerDecode hd
  exact ⟨(hdrBytes_clean_iff p).mp hc, rfl⟩

/-- Settles O5. -/
theorem writtenOutWordsDecode : Obligations.WrittenOutWordsDecode := by
  unfold Obligations.WrittenOutWordsDecode
  decide

end Sys2Proof

namespace Sys2Proof.Machine

/-! ### Events of a slot without a running instance -/

section
variable {x : Slot}

theorem Slot.inFsm_of_not_running (f : Fsm) (h : x.life ≠ .running) : x.inFsm f = false := by
  simp [Slot.inFsm, h]

theorem Slot.inTd_of_not_teardown (t : Td) (h : x.life ≠ .teardown) : x.inTd t = false := by
  simp [Slot.inTd, h]

theorem Slot.reading_of_not_running (h : x.life ≠ .running) : x.reading = false := by
  simp [Slot.reading, h]

end

@[simp] theorem State.restoreCfg_slot (s : State) (x : Slot) (k : Nat) : (s.restoreCfg x).slot k = s.slot k := by
  rw [State.restoreCfg_eq]
  rfl

@[simp] theorem State.closeDev_slot (s : State) (x : Slot) (k : Nat) : (s.closeDev x).slot k = s.slot k := rfl

/-- An event that accepts a frame is refused, like any other, where it is not selected (R114, log 14). -/
theorem State.fireFrame_refused (s : State) (k : Nat) (m : String) (sel : Slot → Bool) (act : Slot → Except Fault Slot)
    (h : sel (s.slot k) = false) : s.fireFrame k m sel act = .refused (.eventNotSelected m) := by
  simp [State.fireFrame, h]

/-- Settles O31: every event's state columns ask for an instance that is RUNNING or in TEARDOWN. -/
theorem eventWithoutRunningInstanceIsRefused : Obligations.EventWithoutRunningInstanceIsRefused := by
  intro s i k hi hlife
  have hrun : (s.slot k).life ≠ .running := by rcases hlife with h | h <;> simp [h]
  have htd : (s.slot k).life ≠ .teardown := by rcases hlife with h | h <;> simp [h]
  cases i <;> simp only [instanceOf, reduceCtorEq, Option.some.injEq] at hi <;> subst hi
  all_goals simp only [exec, execHuntMarker, execHuntSkip, execHdrByte, execHdrLast, execHdrAbort, execFrmByte, execFrmAbort,
    execFrmLast, execRdEos, execRdErr, execDeliver, execDeliverRet, execTdRestore, execTdClose, execTdSentinel,
    execTdSentinelRet, execTdRelease, execAcceptHeader, execAcceptFrame, execAbandon, execFatal]
  case frmLast | acceptFrame =>
    exact ⟨_, State.fireFrame_refused _ _ _ _ _ (by simp [Slot.inFsm_of_not_running, hrun])⟩
  all_goals
    exact ⟨_, State.fire_refused _ _ _ _ _
      (by simp [Slot.inFsm_of_not_running, Slot.inTd_of_not_teardown, Slot.reading_of_not_running, hrun, htd])⟩

end Sys2Proof.Machine
end

section

/-!
PROOFS. The checksum family (40_checksum.md): `Ck` as a function of the data bytes' sum modulo 128 (O8, O9), a span as its
data bytes and its last byte (O7, O10, O11), and the two instructions (O12, O13).
-/

namespace Sys2Proof

/-! ### The sum and the checksum -/

/-- The sum taken in order is the sum in the ring of bytes, where its order does not matter (R142). -/
theorem sumBytes_eq_sum (s : List Byte) : sumBytes s = s.sum := List.sum_eq_foldl.symm

/-- The 8-bit sum is the exact sum modulo 256 (R142). -/
theorem toNat_sumBytes (s : List Byte) : (sumBytes s).toNat = (s.map BitVec.toNat).sum % 256 := by
  rw [sumBytes_eq_sum]
  induction s with
  | nil => rfl
  | cons b s ih => simp only [List.sum_cons, List.map_cons, BitVec.toNat_add, ih, Nat.add_mod_mod]

/-- One byte replaced, the sum loses the old byte and gains the new one. -/
theorem sumBytes_set (s : List Byte) (i : Nat) (hi : i < s.length) (b : Byte) :
    sumBytes (s.set i b) = sumBytes s + (-s[i] + b) := by
  rw [sumBytes_eq_sum, sumBytes_eq_sum, List.sum_set', dif_pos hi]

/-- The checksum is 127 less the sum modulo 128 (R144). -/
theorem toNat_ck (s : List Byte) : (ck s).toNat = 127 - (sumBytes s).toNat % 128 := by
  have hmask : (ck s).toNat = (255 - (sumBytes s).toNat) % 128 := by
    rw [ck, BitVec.toNat_and, BitVec.toNat_not]
    exact Nat.and_two_pow_sub_one_eq_mod _ 7
  omega

/-- Two spans have one checksum exactly where their sums agree modulo 128 (R144). -/
theorem ck_eq_ck_iff (s t : List Byte) : ck s = ck t ↔ (sumBytes s).toNat % 128 = (sumBytes t).toNat % 128 := by
  rw [← BitVec.toNat_inj, toNat_ck, toNat_ck]
  omega

/-- Replacing one byte keeps the checksum exactly where the two bytes agree in their low seven bits (R144). -/
theorem ck_set_eq_ck_iff (s : List Byte) (i : Nat) (hi : i < s.length) (b : Byte) :
    ck (s.set i b) = ck s ↔ b.toNat % 128 = s[i].toNat % 128 := by
  rw [ck_eq_ck_iff, sumBytes_set s i hi]
  generalize s[i] = a
  bv_omega

/-- Settles O8. -/
theorem sumIsModulo256AndOrderFree : Obligations.SumIsModulo256AndOrderFree := by
  refine ⟨fun s => ⟨toNat_sumBytes s, by rw [toNat_ck]; omega⟩, fun s t hst => ?_⟩
  have hsum : sumBytes s = sumBytes t := by rw [sumBytes_eq_sum, sumBytes_eq_sum, hst.sum_eq]
  exact ⟨hsum, by rw [ck, ck, hsum]⟩

/-- Settles O9: 128 divides 256, so the 8-bit sum gives the exact sum modulo 128. -/
theorem checksumIs127LessSumModulo128 : Obligations.ChecksumIs127LessSumModulo128 := by
  intro s
  rw [toNat_ck, toNat_sumBytes, Nat.mod_mod_of_dvd _ (by decide)]

/-! ### Replacing one byte of a span -/

/-- A clean byte is one below 128 (R100). -/
theorem topBit_eq_false_iff (b : Byte) : topBit b = false ↔ b.toNat < 128 := by
  have hmsb : topBit b = b.msb := (BitVec.msb_eq_getLsbD_last b).symm
  rw [hmsb, BitVec.msb_eq_false_iff_two_mul_lt]
  omega

/-- Flipping bit 7 leaves the low seven bits as they were. -/
theorem toNat_flip_bit_seven_mod (b : Byte) : (b ^^^ 0x80).toNat % 128 = b.toNat % 128 := by
  rw [BitVec.toNat_xor]
  exact (Nat.xor_mod_two_pow (n := 7)).trans (Nat.xor_zero _)

/-- A data byte replaced: the checksum is taken of the new data bytes, and the last byte stands (R148). -/
theorem valid_append_singleton_set (d : List Byte) (c : Byte) {i : Nat} (hi : i < d.length) (b : Byte) :
    valid ((d ++ [c]).set i b) = (ck (d.set i b) == c) := by
  rw [List.set_append_left i b hi, valid_append_singleton]

/-- The last byte replaced: the checksum of the data bytes is compared with the new one (R148). -/
theorem valid_append_singleton_set_last (d : List Byte) (c b : Byte) :
    valid ((d ++ [c]).set d.length b) = (ck d == b) := by
  rw [List.set_append_right _ b le_rfl, Nat.sub_self, List.set_cons_zero, valid_append_singleton]

/-- Settles O10: a clean byte is its low seven bits, so a different data byte changes the checksum, and a different last byte
is not the checksum of the same data bytes. -/
theorem cleanSingleByteErrorIsDetected : Obligations.CleanSingleByteErrorIsDetected := by
  intro s i hi b hv hclean hb hne
  obtain rfl | ⟨d, c, rfl⟩ := s.eq_nil_or_concat'
  · cases hi
  rw [valid_append_singleton, beq_iff_eq] at hv
  rcases Nat.lt_or_ge i d.length with hd | hd
  · rw [valid_append_singleton_set d c hd, beq_eq_false_iff_ne, ← hv, Ne, ck_set_eq_ck_iff d i hd]
    have hold := (topBit_eq_false_iff _).mp (hclean _ (List.getElem_mem hi))
    have hnew := (topBit_eq_false_iff b).mp hb
    rw [List.getElem_append_left hd] at hne hold
    rwa [Nat.mod_eq_of_lt hnew, Nat.mod_eq_of_lt hold, BitVec.toNat_inj]
  · obtain rfl : i = d.length := by
      rw [List.length_append, List.length_singleton] at hi
      omega
    rw [List.getElem_concat_length rfl] at hne
    rw [valid_append_singleton_set_last, hv, beq_eq_false_iff_ne]
    exact hne.symm

/-- Settles O11: the flipped byte keeps its low seven bits, so the checksum stays. -/
theorem bitSevenFlipOfDataByteIsNotSeen : Obligations.BitSevenFlipOfDataByteIsNotSeen := by
  intro s i hi
  obtain rfl | ⟨d, c, rfl⟩ := s.eq_nil_or_concat'
  · cases hi
  have hd : i < d.length := by simpa using hi
  rw [valid_append_singleton_set d c hd, valid_append_singleton, List.getElem_append_left hd,
    (ck_set_eq_ck_iff d i hd _).mpr (toNat_flip_bit_seven_mod _)]

/-- Settles O7: the second clause holds since a checksum is a clean byte. -/
theorem spanValidatesIffItsChecksumIsItsLastByte : Obligations.SpanValidatesIffItsChecksumIsItsLastByte := by
  refine ⟨fun s c => by rw [valid_append_singleton, beq_iff_eq], fun s c hc => ?_⟩
  rw [valid_append_singleton, beq_eq_false_iff_ne]
  rintro rfl
  rw [topBit_ck] at hc
  cases hc

end Sys2Proof

namespace Sys2Proof.Machine

/-! ### The checksum instructions -/

/-- `Valid` of at least one byte answers whether the span validates (R140). -/
theorem exec_valid_of_ne_nil (s : State) {span : List Byte} (h : span ≠ []) :
    exec (.valid span) s = .next (s.answer (.valid (Sys2Proof.valid span))) := by
  change execValid span s = _
  rw [execValid, if_neg (by rwa [List.isEmpty_iff])]

/-- `Valid` of no bytes answers a free value and moves the draws on (log 20). -/
theorem exec_valid_nil (s : State) :
    exec (.valid []) s = .next (s.bump.answer (.valid (Config.freeBool s.draw 1))) := rfl

/-- `Ck` answers the checksum of its span (R147). -/
theorem exec_ck (s : State) (d : List Byte) : exec (.ck d) s = .next (s.answer (.ck (Sys2Proof.ck d))) := rfl

/-- Settles O12. -/
theorem checksumInstructionsAnswer : Obligations.ChecksumInstructionsAnswer := by
  refine ⟨fun s d c => ?_, exec_ck⟩
  rw [exec_valid_of_ne_nil s (List.concat_ne_nil c d), valid_append_singleton]
  rfl

/-- Settles O13: the answer is the next free value of the draws. -/
theorem validOfNoBytesAnswersAFreeValue : Obligations.ValidOfNoBytesAnswersAFreeValue :=
  fun s => ⟨Config.freeBool s.draw 1, exec_valid_nil s⟩

end Sys2Proof.Machine
end


section
/-!
PROOFS. The decoder family (41_decoders.md): what the two decoders answer (O14), a logical byte as the pair of its low byte and
its map bit (O3, O4), and the header that AcceptHeader abandons (O21).
-/

namespace Sys2Proof

/-! ### What the decoders answer -/

/-- A captured span validates exactly where its last byte is the checksum of those before (R148). -/
theorem valid_toList {n : Nat} (v : Vector Byte (n + 1)) : valid v.toList = (ck (v.toList.take n) == v[n]) := by
  have hsplit : v.toList.take n ++ [v[n]] = v.toList := by
    simpa [List.take_of_length_le] using List.take_append_getElem (l := v.toList) (i := n) (by simp)
  rw [← valid_append_singleton, hsplit]

/-- The Header Decoder, its fields as R107 writes them (R160). -/
theorem headerDecode_eq (h : Vector Byte 9) :
    headerDecode h = if ck (h.toList.take 8) = h[8] then
      some { dst := h[1] ++ h[0], src := h[3] ++ h[2], rev := h[4], cmd := h[6] ++ h[5], nfr := h[7] } else none := by
  simp only [headerDecode, valid_toList, beq_iff_eq, assemble_eq_append]

/-- The Frame Decoder (R170). -/
theorem frameDecode_eq (f : Vector Byte 6) :
    frameDecode f = if ck (f.toList.take 5) = f[5] then some (Vector.ofFn (logicalByte f)) else none := by
  simp only [frameDecode, valid_toList, beq_iff_eq]

/-- What a frame decodes to, where it decodes. -/
theorem eq_ofFn_of_frameDecode {f : Vector Byte 6} {l : Vector Byte 4} (h : frameDecode f = some l) :
    l = Vector.ofFn (logicalByte f) := by
  unfold frameDecode at h
  split at h <;> cases h
  rfl

/-- Bit `i` of a byte, selected as R110 writes it. -/
theorem shiftRight_and_one_eq_one_iff (b : Byte) (i : Nat) : (b >>> i) &&& 1 = 1 ↔ b.getLsbD i = true := by
  have hbit : (b >>> i) &&& 1 = (BitVec.ofBool (b.getLsbD i)).setWidth 8 := by
    simpa using BitVec.and_one_eq_setWidth_ofBool_getLsbD (x := b >>> i)
  rw [hbit]
  cases b.getLsbD i <;> decide

/-- The logical bytes of a frame, as R110 writes them. -/
theorem logicalByte_eq (f : Vector Byte 6) :
    logicalByte f = fun i => f[i.val] ||| (if (f[4] >>> i.val) &&& 1 = 1 then 0x80 else 0x00) := by
  funext i
  simp only [logicalByte, shiftRight_and_one_eq_one_iff]

/-- Settles O14, by `headerDecode_eq`, `frameDecode_eq` and `logicalByte_eq`. -/
theorem decoderInstructionsAnswer : Obligations.DecoderInstructionsAnswer := by
  refine ⟨fun s h => ?_, fun s f => ?_⟩
  · rw [← headerDecode_eq]
    rfl
  · rw [← logicalByte_eq, ← frameDecode_eq]
    rfl

/-! ### The low seven bits and the top bit of a byte -/

theorem topBit_and_7F (b : Byte) : topBit (b &&& 0x7F) = false := by
  simp [topBit]

/-- A byte is its low seven bits merged with its top bit (R110). -/
theorem and_7F_or_topBit (b : Byte) : (b &&& 0x7F) ||| (if topBit b then 0x80 else 0x00) = b := by
  have htop : (if topBit b then 0x80 else 0x00) = b &&& 0x80 := (BitVec.and_twoPow b 7).symm
  rw [htop, ← BitVec.and_or_distrib_left]
  exact BitVec.and_allOnes

/-- A top bit merged into a clean byte leaves its low seven bits as they were. -/
theorem or_topBit_and_7F {a : Byte} (ha : topBit a = false) (t : Bool) : (a ||| (if t then 0x80 else 0x00)) &&& 0x7F = a := by
  have hlow : a &&& 0x7F = a := by simpa [ha] using and_7F_or_topBit a
  have hmask : (if t then 0x80 else 0x00 : Byte) &&& 0x7F = 0 := by cases t <;> rfl
  rw [BitVec.and_or_distrib_right, hlow, hmask]
  exact BitVec.or_zero

/-- A top bit merged into a clean byte is its top bit. -/
theorem topBit_or_topBit {a : Byte} (ha : topBit a = false) (t : Bool) : topBit (a ||| (if t then 0x80 else 0x00)) = t := by
  rw [topBit, BitVec.getLsbD_or, ← topBit, ha, Bool.false_or]
  cases t <;> rfl

/-- A byte is its top bit beside its low seven bits, `{b[7], b[6:0]}` (R172). -/
theorem ofBool_topBit_append (b : Byte) : (BitVec.ofBool (topBit b) ++ b.extractLsb' 0 7 : BitVec (1 + 7)) = b := by
  have htop : BitVec.ofBool (topBit b) = b.extractLsb' 7 1 := by
    ext i hi
    obtain rfl : i = 0 := by omega
    simp [topBit]
  rw [htop]
  exact BitVec.extractLsb'_append_extractLsb' (w := 1)

theorem extractLsb'_and_7F (b : Byte) : (b &&& 0x7F).extractLsb' 0 7 = b.extractLsb' 0 7 := by
  rw [BitVec.extractLsb'_and]
  exact BitVec.and_allOnes

/-! ### The frame codec -/

/-- The one encoding of a logical byte: a clean wire byte and a map bit carry it exactly where they are its low seven bits and
its top bit (R172). -/
theorem logicalByte_eq_iff {f : Vector Byte 6} {i : Fin 4} (hc : topBit f[i.val] = false) (b : Byte) :
    logicalByte f i = b ↔ f[i.val] = b &&& 0x7F ∧ f[4].getLsbD i.val = topBit b := by
  unfold logicalByte
  constructor
  · rintro rfl
    exact ⟨(or_topBit_and_7F hc _).symm, (topBit_or_topBit hc _).symm⟩
  · rintro ⟨hlow, hmap⟩
    rw [hlow, hmap, and_7F_or_topBit]

/-- A map bit that is merged in or not (R118). -/
theorem getLsbD_ite_zero (t : Bool) (b : Byte) (i : Nat) : (if t then b else 0).getLsbD i = (t && b.getLsbD i) := by
  cases t <;> simp

/-- The map byte is the merge of its four map bits (R108, R118). -/
theorem getLsbD_mapByte_eq_or (l : Vector Byte 4) (i : Nat) : (mapByte l).getLsbD i =
    (topBit l[0] && (1#8).getLsbD i || topBit l[1] && (2#8).getLsbD i || topBit l[2] && (4#8).getLsbD i ||
      topBit l[3] && (8#8).getLsbD i) := by
  simp only [mapByte, Nat.cast_ite, Nat.cast_ofNat, Nat.cast_one, Nat.cast_zero, BitVec.getLsbD_or, getLsbD_ite_zero]
  rfl

/-- Map bit `i` is the top bit of logical byte `i` (R108, R118). -/
theorem getLsbD_mapByte (l : Vector Byte 4) {i : Nat} (hi : i < 4) : (mapByte l).getLsbD i = topBit l[i] := by
  rw [getLsbD_mapByte_eq_or]
  interval_cases i <;> simp

@[simp] theorem topBit_mapByte (l : Vector Byte 4) : topBit (mapByte l) = false := by
  rw [topBit, getLsbD_mapByte_eq_or]
  simp

/-- `FRM` writes the low seven bits of each logical byte (R118). -/
theorem getElem_frmBytes (l : Vector Byte 4) {i : Nat} (hi : i < 4) : (frmBytes l)[i] = l[i] &&& 0x7F := by
  interval_cases i <;> rfl

/-- What `FRM` writes decodes to its four bytes (R118, R172). -/
theorem frameDecode_frmBytes (l : Vector Byte 4) : frameDecode (frmBytes l) = some l := by
  rw [frameDecode_eq, if_pos (by rfl), Option.some_inj]
  ext i hi : 1
  rw [Vector.getElem_ofFn, logicalByte_eq_iff (by rw [getElem_frmBytes l hi, topBit_and_7F])]
  exact ⟨getElem_frmBytes l hi, getLsbD_mapByte l hi⟩

/-- `FRM` writes six clean bytes (R118). -/
theorem frmBytes_clean (l : Vector Byte 4) : ∀ b ∈ (frmBytes l).toList, topBit b = false := by
  simp only [frmBytes, Vector.toList_mk, List.forall_mem_cons, topBit_and_7F, topBit_mapByte, topBit_ck, List.not_mem_nil,
    false_imp_iff, implies_true, and_self]

/-- Settles O3: `logicalByte_eq_iff` says that low byte and map bit are those of the logical byte. -/
theorem frameDecodeAfterFrmIsIdentity : Obligations.FrameDecodeAfterFrmIsIdentity := by
  refine ⟨fun l => ⟨frameDecode_frmBytes l, frmBytes_clean l⟩, fun f l hc hd i hi => ?_⟩
  have hfi : topBit f[i] = false := hc _ (List.mem_take_iff_getElem.mpr ⟨i, by rw [Vector.length_toList]; omega, rfl⟩)
  have hl : logicalByte f ⟨i, hi⟩ = l[i] := by rw [eq_ofFn_of_frameDecode hd, Vector.getElem_ofFn]
  obtain ⟨hlow, hmap⟩ := (logicalByte_eq_iff (i := ⟨i, hi⟩) hfi _).mp hl
  refine ⟨?_, hlow, hmap⟩
  rw [hmap, hlow, extractLsb'_and_7F, ofBool_topBit_append]

/-- Settles O4: a logical byte reads map bits 3..0 only, and one map byte in place of a different clean one changes the
checksum. -/
theorem mapBitsSixToFourChangeNoLogicalByte : Obligations.MapBitsSixToFourChangeNoLogicalByte := by
  intro f g hbytes hmap
  refine ⟨fun l l' hl hl' => ?_, fun hne hf hg hck ⟨hvf, hvg⟩ => hne ?_⟩
  · rw [eq_ofFn_of_frameDecode hl, eq_ofFn_of_frameDecode hl']
    congr 1
    funext i
    rw [logicalByte, logicalByte, hbytes i i.isLt, hmap i i.isLt]
  · have hset : g.toList.take 5 = (f.toList.take 5).set 4 g[4] := by
      refine List.ext_getElem (by simp) fun i hi _ => ?_
      obtain hlt | rfl : i < 4 ∨ i = 4 := by
        rw [List.length_take, Vector.length_toList] at hi
        omega
      · simp [hlt.ne', hbytes i hlt]
      · simp
    rw [valid_toList, beq_iff_eq] at hvf hvg
    rw [hset, ← hck, ← hvf, ck_set_eq_ck_iff _ 4 (by simp), List.getElem_take, Vector.getElem_toList] at hvg
    rw [topBit_eq_false_iff] at hf hg
    rw [Nat.mod_eq_of_lt hf, Nat.mod_eq_of_lt hg, BitVec.toNat_inj] at hvg
    exact hvg.symm

end Sys2Proof

namespace Sys2Proof.Machine

/-! ### The acceptance of a header -/

/-- The header in the capture buffer, with its ninth byte, decodes to the fields R107 writes where that byte is the checksum. -/
theorem Slot.headerDecode_captured (x : Slot) (b : Byte) :
    headerDecode (x.hbuf.set 8 b) = if ck (x.hbuf.toList.take 8) = b then some x.headerFields else none := by
  rw [headerDecode_eq, Vector.toList_set, List.take_set_of_le le_rfl]
  simp [Slot.headerFields]

/-- A wrong checksum abandons the header (R180, R291). -/
theorem Slot.acceptHeader_of_checksum_ne (p : Params) (a : Bool) {b : Byte} {x : Slot}
    (hb : ck (x.hbuf.toList.take 8) ≠ b) : x.acceptHeader p a b = x.abandon .hdrChecksum := by
  rw [Slot.acceptHeader, x.headerDecode_captured, if_neg hb]

/-- Where the checksum is right, too many frames or a failed allocation draw abandon the header (R180, R291). -/
theorem Slot.acceptHeader_of_no_room {p : Params} {a : Bool} {b : Byte} {x : Slot} (hb : ck (x.hbuf.toList.take 8) = b)
    (hr : p.maxFrames.val < x.headerFields.nfr.toNat ∨ (p.allocMayFail = true ∧ a = false)) :
    x.acceptHeader p a b = x.abandon .hdrAlloc := by
  have hd : headerDecode (x.hbuf.set 8 b) = some x.headerFields := by rw [x.headerDecode_captured, if_pos hb]
  simp only [Slot.acceptHeader, hd]
  rcases hr with hmax | ⟨hmay, rfl⟩
  · rw [if_pos hmax]
  · simp [hmay]

/-- AcceptHeader takes the ninth byte from its operand, so storing that byte first only stores it (R193). -/
theorem Slot.acceptHeader_set_last (p : Params) (a : Bool) (b : Byte) (x : Slot) :
    Slot.acceptHeader p a b { x with hbuf := x.hbuf.set 8 b } =
      { x.acceptHeader p a b with hbuf := x.hbuf.set 8 b } := by
  simp only [Slot.acceptHeader, Vector.set_set]
  cases headerDecode (x.hbuf.set 8 b) with
  | none => rfl
  | some f =>
    dsimp only
    split_ifs <;> rfl

section
variable {s : State} {k : Nat} {b : Byte}

/-- HDR_LAST accepts or abandons the header and has stored its ninth byte (R193). -/
theorem exec_hdrLast (hl : (s.slot k).life = .running) (hf : (s.slot k).fsm = .readingHeader) (hb : topBit b = false)
    (hn : (s.slot k).hcnt.val = 8) :
    exec (.hdrLast k b) s = .next (s.setSlot k
      { (s.slot k).acceptHeader s.params s.ans.allocOk b with hbuf := (s.slot k).hbuf.set 8 b }) := by
  rw [← Slot.acceptHeader_set_last]
  exact (exec_instance_iff _ s _ k rfl).mpr ⟨_, _, _, .hdrLast b hl hf hb hn, rfl⟩

/-- AcceptHeader on its own accepts or abandons the header (R180, log 15). -/
theorem exec_acceptHeader (hl : (s.slot k).life = .running) (hf : (s.slot k).fsm = .readingHeader) (hb : topBit b = false)
    (hn : (s.slot k).hcnt.val = 8) :
    exec (.acceptHeader k b) s = .next (s.setSlot k ((s.slot k).acceptHeader s.params s.ans.allocOk b)) :=
  (exec_instance_iff _ s _ k rfl).mpr ⟨_, _, _, .acceptHeader b hl hf hb hn, rfl⟩

end

/-- Settles O21: either way AcceptHeader abandons the header with the cause, and HDR_LAST has stored the byte before. -/
theorem badOrOversizedHeaderIsAbandoned : Obligations.BadOrOversizedHeaderIsAbandoned := by
  intro s k b c hl hf hb hn hc
  have habandon : (s.slot k).acceptHeader s.params s.ans.allocOk b = (s.slot k).abandon c := by
    rcases hc with ⟨hck, rfl⟩ | ⟨hck, rfl, hroom⟩
    · exact Slot.acceptHeader_of_checksum_ne _ _ hck
    · exact Slot.acceptHeader_of_no_room hck hroom
  rw [exec_hdrLast hl hf hb hn, exec_acceptHeader hl hf hb hn, habandon]
  exact ⟨rfl, rfl⟩

end Sys2Proof.Machine
end

section
/-!
PROOFS. The reader family (42_reader.md): what a step selects (O15), each reader event on its own (O17 to O20, O22, O24 to O29), and
the runs of one instance: bytes without a marker (O59) and an intact packet (O60).
-/

namespace Sys2Proof.Machine

/-! ### What a step selects -/

section
variable {s : State} {k : Nat} {a : Answers} {rest : List Turn} {i : Instr} {u : State}

/-- A turn of an instance that selects an event runs it. -/
theorem step_of_fetchInst (hin : s.inputs = .inst k a :: rest) (hf : fetchInst k { s with inputs := rest, ans := a } = .run i u) :
    step s = exec i u := by
  simp only [step, fetch, hin, hf]

/-- In a reading state the turn consumes one read result and selects the event of the map (R190, R114). -/
theorem fetchInst_of_read {r : RdResult} {rs : List RdResult} (hl : (s.slot k).life = .running)
    (hs : (s.slot k).stream = r :: rs) (he : eventOf s.params.marker (s.slot k).sequencer k r = .ok i) :
    fetchInst k s = .run i (s.setSlot k { s.slot k with stream := rs }) := by
  have hread : fetchRead k s = .run i (s.setSlot k { s.slot k with stream := rs }) := by
    simp only [fetchRead, hs, he]
  cases hf : (s.slot k).fsm with
  | delivering => simp [eventOf_delivering _ k r (q := (s.slot k).sequencer) hf] at he
  | hunting | readingHeader | readingFrames => simpa only [fetchInst, hl, hf] using hread

/-- In DELIVERING the turn calls the handler, or takes its return (R202, R203). -/
theorem fetchInst_of_delivering (hl : (s.slot k).life = .running) (hf : (s.slot k).fsm = .delivering) :
    ((s.slot k).call = none → fetchInst k s = .run (.deliver k) s) ∧
    ((s.slot k).call = some .packet → s.ans.handlerReturns = true → (s.slot k).callJoin = none →
      fetchInst k s = .run (.deliverRet k) s) := by
  refine ⟨fun hc => ?_, fun hc hr hj => ?_⟩
  · simp only [fetchInst, hl, hf, hc]
  · simp only [fetchInst, hl, hf, hc, (Slot.callReturns_iff ..).mpr ⟨hr, hj⟩, if_true]

/-- In TEARDOWN the turn selects the event of the teardown step (R261). -/
theorem fetchInst_of_teardown (hl : (s.slot k).life = .teardown) :
    ((s.slot k).td = .restore → fetchInst k s = .run (.tdRestore k) s) ∧
    ((s.slot k).td = .close → fetchInst k s = .run (.tdClose k) s) ∧
    ((s.slot k).td = .sentinel → (s.slot k).call = none → (s.slot k).sentinelDone = false →
      fetchInst k s = .run (.tdSentinel k) s) ∧
    ((s.slot k).td = .sentinel → (s.slot k).call = some .sentinel → s.ans.handlerReturns = true → (s.slot k).callJoin = none →
      fetchInst k s = .run (.tdSentinelRet k) s) ∧
    ((s.slot k).td = .release → fetchInst k s = .run (.tdRelease k) s) := by
  refine ⟨fun ht => ?_, fun ht => ?_, fun ht hc hd => ?_, fun ht hc hr hj => ?_, fun ht => ?_⟩
  · simp only [fetchInst, hl, ht]
  · simp only [fetchInst, hl, ht]
  · simp [fetchInst, hl, ht, hc, hd]
  · simp only [fetchInst, hl, ht, hc, (Slot.callReturns_iff ..).mpr ⟨hr, hj⟩, if_true]
  · simp only [fetchInst, hl, ht]

/-- A turn of START's result passes where the `Ok` has reached the host already (R326). -/
theorem State.startReturns_of_not_pending (hi : s.handlesInv) (hl : (s.slot k).live) (hp : (s.slot k).okPending = false) :
    s.startReturns (s.slot k).handle = s := by
  simp [State.startReturns, State.findHandle_of_live hi hl rfl, hp]

end

/-- Settles O15, by the turn: the fetch selects the event, and `step` runs it. -/
theorem stepRunsTheSelectedEvent : Obligations.StepRunsTheSelectedEvent := by
  refine ⟨fun s i a rest hin ho => ?_, fun s k a rest r rs i hin hl hs he => ?_, fun s k a rest hin hl hf => ?_,
    fun s k a rest hin hl => ?_, fun s k h rest hi hin hl hh => ?_, fun s k h rest hin hc hj => ?_⟩
  · simp only [step, fetch, hin, ho, if_true]
  · exact step_of_fetchInst hin (fetchInst_of_read hl hs he)
  · obtain ⟨hcall, hret⟩ := fetchInst_of_delivering (s := { s with inputs := rest, ans := a }) hl hf
    exact ⟨fun hc => step_of_fetchInst hin (hcall hc), fun hc hr hj => step_of_fetchInst hin (hret hc hr hj)⟩
  · obtain ⟨hrestore, hclose, hsentinel, hret, hrelease⟩ :=
      fetchInst_of_teardown (s := { s with inputs := rest, ans := a }) hl
    exact ⟨fun ht => step_of_fetchInst hin (hrestore ht), fun ht => step_of_fetchInst hin (hclose ht),
      fun ht hc hd => step_of_fetchInst hin (hsentinel ht hc hd),
      fun ht hc hr hj => step_of_fetchInst hin (hret ht hc hr hj), fun ht => step_of_fetchInst hin (hrelease ht)⟩
  · have hstep : step s = .next ({ s with inputs := rest }.startReturns h) := by simp only [step, fetch, hin]
    subst hh
    refine ⟨fun hp => ?_, fun hp => ?_⟩ <;> rw [hstep]
    · exact congrArg _ (State.startReturns_of_pending (s := { s with inputs := rest }) hi hl rfl hp)
    · exact congrArg _ (State.startReturns_of_not_pending (s := { s with inputs := rest }) hi hl hp)
  · have hfetch : fetchHandlerJoin k h { s with inputs := rest } = .run (.join h)
        (if s.joinWaits h then { s with inputs := rest }.holdCall k h else { s with inputs := rest }) := if_pos ⟨hc, hj⟩
    simp only [step, fetch, hin, hfetch]

/-! ### The events, one by one -/

section
variable {s : State} {k : Nat} {i : Instr} {y : Slot}

/-- The instruction of a move is one of the slot that makes it. -/
theorem SlotMove.instance_eq {p : Params} {a : Answers} {n d : Nat} {x : Slot} {es : List Effect}
    (hm : SlotMove p a n k x i y es d) : instanceOf i = some k := by
  cases hm <;> rfl

/-- A move of a slot is what its instruction does. -/
theorem SlotMove.exec_eq {es : List Effect} {d : Nat} (hm : SlotMove s.params s.ans s.draw k (s.slot k) i y es d) :
    exec i s = .next (s.moved k y es d) :=
  (exec_instance_iff i s _ k hm.instance_eq).mpr ⟨y, es, d, hm, rfl⟩

/-- A move without an effect and without a draw writes its slot and nothing else. -/
theorem SlotMove.exec_quiet (hm : SlotMove s.params s.ans s.draw k (s.slot k) i y [] s.draw) :
    exec i s = .next (s.setSlot k y) := hm.exec_eq

end

/-- Settles O17. -/
theorem markerStartsHeader : Obligations.MarkerStartsHeader := fun _ _ hl hf => (SlotMove.huntMarker hl hf).exec_quiet

/-- Settles O18: the slot is written with what it holds. -/
theorem huntSkipChangesNoState : Obligations.HuntSkipChangesNoState := by
  intro s k b hl hf hb
  rw [(SlotMove.huntSkip b hl hf hb).exec_quiet, s.setSlot_self k (by simp [hl])]

/-- Settles O19. -/
theorem headerByteIsStored : Obligations.HeaderByteIsStored := fun s k b hl hf hb hn =>
  ⟨_, (SlotMove.hdrByte b hl hf hb hn).exec_quiet, rfl,
    Fin.val_add_one_of_lt (Fin.lt_def.mpr hn), Vector.toList_set (s.slot k).hcnt.isLt⟩

/-- Settles O24. -/
theorem frameByteIsStored : Obligations.FrameByteIsStored := fun s k b hl hf hb hn =>
  ⟨_, (SlotMove.frmByte b hl hf hb hn).exec_quiet, rfl,
    Fin.val_add_one_of_lt (Fin.lt_def.mpr hn), Vector.toList_set (s.slot k).fpos.isLt⟩

/-- Settles O22. -/
theorem topBitByteAbandonsPacket : Obligations.TopBitByteAbandonsPacket :=
  ⟨fun _ _ b hl hf hb => (SlotMove.hdrAbort b hl hf hb).exec_quiet,
    fun _ _ b hl hf hb hn => (SlotMove.frmAbort b hl hf hb hn).exec_quiet⟩

/-- Settles O27. -/
theorem terminalReadBeginsTeardown : Obligations.TerminalReadBeginsTeardown := fun _ _ hl hf =>
  ⟨(SlotMove.rdEos hl hf).exec_quiet, fun e => (SlotMove.rdErr e hl hf).exec_quiet, fun v => (SlotMove.fatal v hl hf).exec_quiet⟩

/-- Settles O29. -/
theorem handlerReturnReleasesPacket : Obligations.HandlerReturnReleasesPacket := fun s _ hl hf hc hj =>
  ⟨freePkt s.draw, [], (SlotMove.deliverRet hl hf hc hj).exec_eq⟩

/-! ### Acceptance of a header -/

/-- A header that decodes, with room for its frames, is accepted (R180). -/
theorem Slot.acceptHeader_of_decode {p : Params} {a : Bool} {b : Byte} {x : Slot} {f : PktFields}
    (hd : headerDecode (x.hbuf.set 8 b) = some f) (hmax : f.nfr.toNat ≤ p.maxFrames.val) (ha : p.allocMayFail = true → a = true) :
    x.acceptHeader p a b = if f.nfr = 0 then { x with pkt := f, pktLive := true, fsm := .delivering }
      else { x with pkt := f, pktLive := true, fidx := 0, fpos := 0, fsm := .readingFrames } := by
  have hdraw : ¬ (p.allocMayFail && !a) = true := by simpa using ha
  simp only [Slot.acceptHeader, hd, if_neg hmax.not_gt, if_neg hdraw]

/-- Settles O20: the captured header decodes, and HDR_LAST has stored its ninth byte. -/
theorem goodHeaderIsAccepted : Obligations.GoodHeaderIsAccepted := by
  intro s k b hl hf hb hn hck ha
  have hd : headerDecode ((s.slot k).hbuf.set 8 b) = some (s.slot k).headerFields := by
    rw [Slot.headerDecode_captured, if_pos hck]
  rw [exec_hdrLast hl hf hb hn, exec_acceptHeader hl hf hb hn]
  refine ⟨fun h0 hmax => ?_, fun h0 => ?_⟩
  · rw [Slot.acceptHeader_of_decode hd hmax ha, if_neg h0]
    exact ⟨rfl, rfl⟩
  · rw [Slot.acceptHeader_of_decode hd (by simp [h0]) ha, if_pos h0]
    exact ⟨rfl, rfl⟩

/-! ### Acceptance of a frame -/

/-- The frame in the capture buffer, with its sixth byte, decodes to the bytes R110 writes where that byte is the checksum. -/
theorem Slot.frameDecode_captured (x : Slot) (b : Byte) :
    frameDecode (x.fbuf.set 5 b) =
      if ck (x.fbuf.toList.take 5) = b then some (Vector.ofFn fun i : Fin 4 => x.logicalAt i) else none := by
  have hbytes : logicalByte (x.fbuf.set 5 b) = fun i : Fin 4 => x.logicalAt i := by
    rw [logicalByte_eq]
    funext i
    have hi : i.val < 6 := by omega
    have h5 : 5 ≠ i.val := by omega
    simp [Slot.logicalAt, List.getD, hi, h5]
  rw [frameDecode_eq, Vector.toList_set, List.take_set_of_le le_rfl, hbytes, Vector.getElem_set_self]

/-- A wrong sixth byte abandons the packet (R181). -/
theorem Slot.acceptFrame_of_checksum_ne (p : Params) {b : Byte} {x : Slot} (hb : ck (x.fbuf.toList.take 5) ≠ b) :
    x.acceptFrame p b = .ok (x.abandon .frmChecksum) := by
  simp only [Slot.acceptFrame, x.frameDecode_captured, if_neg hb]

/-- A frame that decodes, below MAX_FRAMES, is accepted: its four bytes are written at `4*S.FIDX`, no other payload byte changes,
and the frame is counted (R181). -/
theorem Slot.acceptFrame_of_decode {p : Params} {b : Byte} {x : Slot} {l : Vector Byte 4}
    (hd : frameDecode (x.fbuf.set 5 b) = some l) (hi : x.fidx.val < p.maxFrames.val) :
    ∃ m, memWriteAll p x.pay (4 * x.fidx.val) l.toList = .ok m ∧ (x.fidx + 1).val = x.fidx.val + 1 ∧
      x.acceptFrame p b = .ok (if x.fidx.val + 1 = x.pkt.nfr.toNat
        then { x with pay := m, fidx := x.fidx + 1, fsm := .delivering }
        else { x with pay := m, fidx := x.fidx + 1, fpos := 0 }) := by
  obtain ⟨m, hm⟩ := memWriteAll_ok p x.pay (4 * x.fidx.val) l.toList (by rw [Vector.length_toList]; omega)
  refine ⟨m, hm, Fin.val_add_one_of_lt (Fin.lt_def.mpr ?_), ?_⟩
  · have := p.maxFrames.isLt
    rw [Fin.val_last]
    omega
  · simp only [Slot.acceptFrame, hd, hm]
    split <;> rfl

/-- AcceptFrame takes the sixth byte from its operand, so storing that byte first only stores it (R198). -/
theorem Slot.acceptFrame_set_last {p : Params} {b : Byte} {x y : Slot} (h : x.acceptFrame p b = .ok y) :
    Slot.acceptFrame p b { x with fbuf := x.fbuf.set 5 b } = .ok { y with fbuf := x.fbuf.set 5 b } := by
  simp only [Slot.acceptFrame, Vector.set_set] at h ⊢
  cases hd : frameDecode (x.fbuf.set 5 b) with
  | none =>
    simp only [hd, Except.ok.injEq] at h ⊢
    exact h ▸ rfl
  | some l =>
    cases hm : memWriteAll p x.pay (4 * x.fidx.val) l.toList with
    | error e => simp [hd, hm] at h
    | ok m =>
      simp only [hd, hm] at h ⊢
      split at h
      · next hn => rw [if_pos hn]; cases h; rfl
      · next hn => rw [if_neg hn]; cases h; rfl

section
variable {s : State} {k : Nat} {b : Byte} {y : Slot}

/-- What AcceptFrame makes of the slot is what FRM_LAST makes of it, which has stored the sixth byte too (R198, R181, log 15). -/
theorem exec_frmLast_and_acceptFrame (hl : (s.slot k).life = .running) (hf : (s.slot k).fsm = .readingFrames)
    (hn : (s.slot k).fpos.val = 5) (hy : (s.slot k).acceptFrame s.params b = .ok y) :
    exec (.frmLast k b) s = .next (s.setSlot k { y with fbuf := (s.slot k).fbuf.set 5 b }) ∧
    exec (.acceptFrame k b) s = .next (s.setSlot k y) :=
  ⟨(SlotMove.frmLast b _ hl hf hn (Slot.acceptFrame_set_last hy)).exec_quiet, (SlotMove.acceptFrame b y hl hf hn hy).exec_quiet⟩

end

/-- Settles O25: the payload buffer after the frame is the one `memWriteAll_read` speaks of. -/
theorem goodFrameIsAccepted : Obligations.GoodFrameIsAccepted := by
  intro s k b hl hf hn hck hmax
  have hd := (s.slot k).frameDecode_captured b
  rw [if_pos hck] at hd
  obtain ⟨m, hm, hnext, hacc⟩ := Slot.acceptFrame_of_decode hd hmax
  refine ⟨m, (s.slot k).fidx + 1, hnext, fun j => ?_, fun hlast => ?_, fun hmore => ?_⟩
  · rw [memWriteAll_read _ _ _ _ _ hm, Vector.length_toList]
    split
    · next hj => simp [show j - 4 * (s.slot k).fidx.val < 4 by omega]
    · rfl
  · rw [if_pos hlast] at hacc
    exact exec_frmLast_and_acceptFrame hl hf hn hacc
  · rw [if_neg hmore] at hacc
    exact exec_frmLast_and_acceptFrame hl hf hn hacc

/-- Settles O26: a checksum has top bit 0, so a byte with top bit 1 is none. -/
theorem badFrameAbandonsWholePacket : Obligations.BadFrameAbandonsWholePacket := by
  intro s k b hl hf hn hb
  have hck : ck ((s.slot k).fbuf.toList.take 5) ≠ b := by
    rcases hb with hne | htop
    · exact hne
    · rintro rfl
      simp at htop
  exact exec_frmLast_and_acceptFrame hl hf hn (Slot.acceptFrame_of_checksum_ne _ hck)

/-! ### Delivery -/

/-- The packet the handler sees has the payload bytes written, in order (R84). -/
theorem Slot.packet_payload_getElem? {n i : Nat} {x : Slot} {v : Byte} (hi : i < 4 * x.pkt.nfr.toNat)
    (hv : PayBuf.read x.pay i = some v) : (x.packet n).payload[i]? = some v := by
  simp [Slot.packet, hi, memRead_of_read n hv]

/-- Settles O28. -/
theorem deliverCallsHandlerWithThePacket : Obligations.DeliverCallsHandlerWithThePacket := by
  intro s k hl hf hc
  refine ⟨(s.slot k).packet s.draw, ?_, rfl, ?_, fun i hi v hv => Slot.packet_payload_getElem? hi hv⟩
  · exact (SlotMove.deliver hl hf hc).exec_eq
  · simp [Slot.packet]

/-! ### Runs of one instance -/

/-- The instance in slot `k` takes `n` turns, with parameters `p`, answers `a` and draw counter `d`, from slot `x` to slot `y`; it
makes the effects `es` (newest first) and draws no free value. -/
inductive SlotRun (p : Params) (a : Answers) (d k : Nat) : Nat → Slot → List Effect → Slot → Prop
  | zero (x : Slot) : SlotRun p a d k 0 x [] x
  | succ {n : Nat} {i : Instr} {x x' y z : Slot} {es es' : List Effect} (hf : InstFetch p.marker k x a.handlerReturns i x')
      (hm : SlotMove p a d k x' i y es d) (hr : SlotRun p a d k n y es' z) : SlotRun p a d k (n + 1) x (es' ++ es) z

section
variable {p : Params} {a : Answers} {d k : Nat} {x y z : Slot}

/-- One turn after another. -/
theorem SlotRun.trans {m n : Nat} {es es' : List Effect} (h : SlotRun p a d k m x es y) (h' : SlotRun p a d k n y es' z) :
    SlotRun p a d k (m + n) x (es' ++ es) z := by
  induction h with
  | zero => simpa using h'
  | succ hf hm _ ih =>
    rw [Nat.add_right_comm, ← List.append_assoc]
    exact .succ hf hm (ih h')

/-- A run without effects after another. -/
theorem SlotRun.trans_quiet {m n : Nat} (h : SlotRun p a d k m x [] y) (h' : SlotRun p a d k n y [] z) :
    SlotRun p a d k (m + n) x [] z := h.trans h'

/-- A byte read in a reading state, and the quiet event the map selects for it (R190, R114). -/
theorem SlotRun.read {b : Byte} {rs : List RdResult} {i : Instr} (hl : x.life = .running) (hf : x.fsm ≠ .delivering)
    (hs : x.stream = .byte b :: rs) (he : eventOf p.marker x.sequencer k (.byte b) = .ok i)
    (hm : SlotMove p a d k (x.afterRead rs) i y [] d) : SlotRun p a d k 1 x [] y :=
  .succ (.read _ _ i hl hf hs he) hm (.zero y)

/-- The machine takes the turns of one instance one after another: its slot makes the run, and no other slot changes (R305). -/
theorem SlotRun.run {n : Nat} {es : List Effect} {s : State} {rest : List Turn} (h : SlotRun s.params a s.draw k n (s.slot k) es y)
    (hin : s.inputs = List.replicate n (.inst k a) ++ rest) :
    ∃ t : State, Sys2Proof.core.run n s = .next t ∧ t.slot k = y ∧ (∀ j, j ≠ k → t.slot j = s.slot j) ∧
      t.effects = es ++ s.effects ∧ t.inputs = rest := by
  generalize hx : s.slot k = x at h
  generalize hp : s.params = p at h
  generalize hd : s.draw = d at h
  induction h generalizing s with
  | zero => exact ⟨s, rfl, hx, fun _ _ => rfl, rfl, hin⟩
  | @succ n i x x' y z es es' hf hm _ ih =>
    subst hx hp hd
    have hs := step_of_move hin hf hm
    obtain ⟨t, ht, hk, hother, heff, hrest⟩ := ih (s := State.moved { s with inputs := _, ans := a } k y es s.draw)
      rfl (by rw [State.moved_slot, if_pos rfl]) rfl rfl
    refine ⟨t, run_of_step hs ht, hk, fun j hj => ?_, ?_, hrest⟩
    · rw [hother j hj, State.moved_slot, if_neg hj]
      rfl
    · rw [heff, List.append_assoc]
      rfl

/-! ### Bytes without a marker -/

/-- A byte that is no marker is read while hunting and nothing else happens (R195). -/
theorem SlotRun.skip {b : Byte} {rs : List RdResult} (hl : x.life = .running) (hf : x.fsm = .hunting)
    (hs : x.stream = .byte b :: rs) (hb : b ≠ p.marker) : SlotRun p a d k 1 x [] (x.afterRead rs) :=
  .read hl (by simp [hf]) hs (by simp [eventOf, Slot.sequencer, hf, hb]) (.huntSkip b hl hf hb)

/-- Bytes among which no marker is are all read while hunting (R195, R208). -/
theorem SlotRun.skips {bs : List Byte} {more : List RdResult} (hl : x.life = .running) (hf : x.fsm = .hunting)
    (hb : ∀ b ∈ bs, b ≠ p.marker) (hs : x.stream = bs.map .byte ++ more) :
    SlotRun p a d k bs.length x [] (x.afterRead more) := by
  induction bs generalizing x with
  | nil =>
    obtain rfl : x.stream = more := hs
    exact .zero x
  | cons b bs ih =>
    obtain ⟨hb, hbs⟩ := List.forall_mem_cons.mp hb
    rw [List.length_cons, Nat.add_comm]
    exact (SlotRun.skip hl hf hs hb).trans_quiet (ih (x := x.afterRead _) hl hf hbs rfl)

end

/-- Settles O59. -/
theorem bytesWithoutMarkerReachNoHandler : Obligations.BytesWithoutMarkerReachNoHandler :=
  fun _ _ _ _ _ _ hl hf hb hs hin => (SlotRun.skips hl hf hb hs).run hin

section
variable {p : Params} {a : Answers} {d k : Nat} {x y z : Slot}

/-! ### The bytes of a header -/

/-- A capture buffer whose first `n` bytes are known, with the next stored. -/
theorem take_set_succ {α : Type} {m n : Nat} (v : Vector α m) (hn : n < m) (b : α) :
    (v.set n b).toList.take (n + 1) = v.toList.take n ++ [b] := by
  rw [Vector.toList_set, List.take_succ_eq_append_getElem (by simpa using hn), List.getElem_set_self,
    List.take_set_of_le le_rfl]

/-- A full capture buffer is its bytes before the last, and the last. -/
theorem toList_set_last {α : Type} {n : Nat} (v : Vector α (n + 1)) (b : α) : (v.set n b).toList = v.toList.take n ++ [b] := by
  rw [← take_set_succ v n.lt_succ_self b, List.take_of_length_le (by simp)]

/-- The marker read while hunting (R191). -/
theorem SlotRun.marker {rs : List RdResult} (hl : x.life = .running) (hf : x.fsm = .hunting)
    (hs : x.stream = .byte p.marker :: rs) :
    ∃ y, SlotRun p a d k 1 x [] y ∧ x.readerOnly y ∧ y.stream = rs ∧ y.life = .running ∧ y.fsm = .readingHeader ∧ y.hcnt = 0 :=
  ⟨_, .read hl (by simp [hf]) hs (by simp [eventOf, Slot.sequencer, hf]) (.huntMarker hl hf), rfl, rfl, hl, rfl, rfl⟩

/-- A capture buffer of which only the last byte is still to come: clean bytes read one after another, each stored next, fill it.
`slot` is the slot as a function of the buffer, its counter and the stream (R192, R196). -/
theorem SlotRun.capture {n : Nat} {slot : Vector Byte (n + 1) → Fin (n + 1) → List RdResult → Slot}
    (hread : ∀ v (c : Fin (n + 1)) b rs, c.val < n → topBit b = false →
      SlotRun p a d k 1 (slot v c (.byte b :: rs)) [] (slot (v.set c.val b c.isLt) (c + 1) rs))
    (bs : List Byte) (hb : ∀ b ∈ bs, topBit b = false) (rs : List RdResult) (v : Vector Byte (n + 1)) (c : Fin (n + 1))
    (hn : c.val + bs.length = n) :
    ∃ w : Vector Byte (n + 1), w.toList.take n = v.toList.take c.val ++ bs ∧
      SlotRun p a d k bs.length (slot v c (bs.map .byte ++ rs)) [] (slot w (Fin.last n) rs) := by
  induction bs generalizing v c with
  | nil =>
    obtain rfl : c = Fin.last n := Fin.ext hn
    exact ⟨v, by simp, .zero _⟩
  | cons b bs ih =>
    obtain ⟨hb, hbs⟩ := List.forall_mem_cons.mp hb
    rw [List.length_cons] at hn
    have hlt : c.val < n := by omega
    have hnext : (c + 1).val = c.val + 1 := Fin.val_add_one_of_lt (Fin.lt_def.mpr hlt)
    obtain ⟨w, hw, hrun⟩ := ih hbs (v.set c.val b c.isLt) (c + 1) (by omega)
    refine ⟨w, ?_, ?_⟩
    · rw [hw, hnext, take_set_succ, List.append_assoc, List.singleton_append]
    · rw [List.length_cons, Nat.add_comm]
      exact (hread v c b _ hlt hb).trans_quiet hrun

/-- The first eight bytes of a header are stored (R192). -/
theorem SlotRun.headerData {bs : List Byte} {rs : List RdResult} (hl : x.life = .running) (hf : x.fsm = .readingHeader)
    (h0 : x.hcnt = 0) (hb : ∀ b ∈ bs, topBit b = false) (hn : bs.length = 8) (hs : x.stream = bs.map .byte ++ rs) :
    ∃ hb : Vector Byte 9, hb.toList.take 8 = bs ∧
      SlotRun p a d k bs.length x [] { x with hbuf := hb, hcnt := Fin.last 8, stream := rs } := by
  obtain ⟨w, hw, hrun⟩ := SlotRun.capture (p := p) (a := a) (d := d) (k := k) (n := 8)
    (slot := fun v c rs => { x with hbuf := v, hcnt := c, stream := rs }) (fun v c b rs hc hb =>
      .read hl (by simp [hf]) rfl (by simp [eventOf, Slot.sequencer, hf, hb, hc]) (.hdrByte b hl hf hb hc))
    bs hb rs x.hbuf 0 (by simp [hn])
  refine ⟨w, by simpa using hw, ?_⟩
  rw [← hs, ← h0] at hrun
  exact hrun

/-- The first five bytes of a frame are stored (R196). -/
theorem SlotRun.frameData {bs : List Byte} {rs : List RdResult} (hl : x.life = .running) (hf : x.fsm = .readingFrames)
    (h0 : x.fpos = 0) (hb : ∀ b ∈ bs, topBit b = false) (hn : bs.length = 5) (hs : x.stream = bs.map .byte ++ rs) :
    ∃ fb : Vector Byte 6, fb.toList.take 5 = bs ∧
      SlotRun p a d k bs.length x [] { x with fbuf := fb, fpos := Fin.last 5, stream := rs } := by
  obtain ⟨w, hw, hrun⟩ := SlotRun.capture (p := p) (a := a) (d := d) (k := k) (n := 5)
    (slot := fun v c rs => { x with fbuf := v, fpos := c, stream := rs }) (fun v c b rs hc hb =>
      .read hl (by simp [hf]) rfl (by simp [eventOf, Slot.sequencer, hf, hb, hc]) (.frmByte b hl hf hb hc))
    bs hb rs x.fbuf 0 (by simp [hn])
  refine ⟨w, by simpa using hw, ?_⟩
  rw [← hs, ← h0] at hrun
  exact hrun

/-! ### A packet, frame by frame -/

/-- The reader has accepted the header with the fields `f` and holds the payload bytes `got`; `n` frames are to come, and `q` bytes
of the next one are captured. -/
structure Slot.Awaits (f : PktFields) (got : List Byte) (n q : Nat) (x : Slot) : Prop where
  running : x.life = .running
  fsm : x.fsm = if n = 0 then .delivering else .readingFrames
  pkt : x.pkt = f
  total : got.length + 4 * n = 4 * f.nfr.toNat
  next : n ≠ 0 → x.fpos.val = q ∧ got.length = 4 * x.fidx.val
  written : ∀ i < got.length, PayBuf.read x.pay i = got[i]?

theorem Slot.readerOnly_trans (h1 : x.readerOnly y) (h2 : y.readerOnly z) : x.readerOnly z := by
  rw [Slot.readerOnly, h2, h1]

/-- The ninth byte of a header that decodes and has room: the packet is awaited, no payload byte of it yet (R193, R180). -/
theorem SlotRun.headerLast {f : PktFields} {b : Byte} {rs : List RdResult} (hl : x.life = .running)
    (hf : x.fsm = .readingHeader) (hn : x.hcnt.val = 8) (hb : topBit b = false) (hd : headerDecode (x.hbuf.set 8 b) = some f)
    (hmax : f.nfr.toNat ≤ p.maxFrames.val) (ha : p.allocMayFail = true → a.allocOk = true) (hs : x.stream = .byte b :: rs) :
    ∃ y, SlotRun p a d k 1 x [] y ∧ x.readerOnly y ∧ y.stream = rs ∧ y.Awaits f [] f.nfr.toNat 0 := by
  have hmove : SlotMove p a d k (x.afterRead rs) _ _ [] d := .hdrLast b hl hf hb hn
  rw [Slot.acceptHeader_set_last, Slot.acceptHeader_of_decode (x := x.afterRead rs) hd hmax ha] at hmove
  have hrun := SlotRun.read hl (by simp [hf]) hs (by simp [eventOf, Slot.sequencer, hf, hb, hn]) hmove
  by_cases h0 : f.nfr = 0
  · rw [if_pos h0] at hrun
    exact ⟨_, hrun, rfl, rfl, hl, by simp [h0], rfl, by simp, by simp [h0], by simp⟩
  · have hpos : f.nfr.toNat ≠ 0 := fun h => h0 (BitVec.eq_of_toNat_eq h)
    rw [if_neg h0] at hrun
    exact ⟨_, hrun, rfl, rfl, hl, by simp [hpos], rfl, by simp, fun _ => ⟨rfl, rfl⟩, by simp⟩

/-- The nine bytes of `HDR` are accepted where the packet has room (R192, R193). -/
theorem SlotRun.header {f : PktFields} {rs : List RdResult} (hl : x.life = .running) (hf : x.fsm = .readingHeader)
    (h0 : x.hcnt = 0) (hw : wireFields f = true) (hmax : f.nfr.toNat ≤ p.maxFrames.val)
    (ha : p.allocMayFail = true → a.allocOk = true) (hs : x.stream = (hdrBytes f).toList.map .byte ++ rs) :
    ∃ y, SlotRun p a d k 9 x [] y ∧ x.readerOnly y ∧ y.stream = rs ∧ y.Awaits f [] f.nfr.toNat 0 := by
  rw [hdrBytes_toList, List.map_append, List.append_assoc] at hs
  obtain ⟨hb, hdata, hrun⟩ := SlotRun.headerData hl hf h0 ((wireFields_iff f).mp hw) rfl hs
  have hfull : hb.set 8 (ck (hdrData f)) = hdrBytes f := by
    rw [← Vector.toList_inj, toList_set_last, hdata, hdrBytes_toList]
  obtain ⟨y, hlast, honly, hsy, hy⟩ := SlotRun.headerLast (x := { x with hbuf := hb, hcnt := Fin.last 8, stream := _ })
    hl hf rfl (topBit_ck _) (hfull ▸ headerDecode_hdrBytes f) hmax ha rfl
  exact ⟨y, hrun.trans_quiet hlast, Slot.readerOnly_trans rfl honly, hsy, hy⟩

/-- Bytes written after those there are the bytes there, and then those. -/
theorem memWriteAll_read_append {m m' : PayBuf} {got vs : List Byte} (hm : memWriteAll p m got.length vs = .ok m')
    (hr : ∀ i < got.length, PayBuf.read m i = got[i]?) : ∀ i < (got ++ vs).length, PayBuf.read m' i = (got ++ vs)[i]? := by
  intro i hi
  rw [List.length_append] at hi
  rw [memWriteAll_read _ _ _ _ _ hm]
  rcases Nat.lt_or_ge i got.length with hlt | hge
  · rw [if_neg (by omega), hr i hlt, List.getElem?_append_left hlt]
  · rw [if_pos ⟨hge, hi⟩, List.getElem?_append_right hge]

/-- The sixth byte of a frame that decodes: its four bytes are received, and one frame less is to come (R198, R181). -/
theorem SlotRun.frameLast {f : PktFields} {got : List Byte} {n : Nat} {l : Vector Byte 4} {b : Byte} {rs : List RdResult}
    (h : x.Awaits f got (n + 1) 5) (hmax : f.nfr.toNat ≤ p.maxFrames.val) (hd : frameDecode (x.fbuf.set 5 b) = some l)
    (hs : x.stream = .byte b :: rs) :
    ∃ y, SlotRun p a d k 1 x [] y ∧ x.readerOnly y ∧ y.stream = rs ∧ y.Awaits f (got ++ l.toList) n 0 := by
  obtain ⟨hl, hf, rfl, htotal, hnext, hgot⟩ := h
  obtain ⟨hn, hidx⟩ := hnext n.succ_ne_zero
  rw [if_neg n.succ_ne_zero] at hf
  obtain ⟨m, hm, hcount, hacc⟩ := Slot.acceptFrame_of_decode (p := p) (x := x.afterRead rs) hd (by dsimp only; omega)
  have hgot' := memWriteAll_read_append (hidx ▸ hm) hgot
  have hmove : SlotMove p a d k (x.afterRead rs) _ _ [] d := .frmLast b _ hl hf hn (Slot.acceptFrame_set_last hacc)
  have hrun := SlotRun.read hl (by simp [hf]) hs (by simp [eventOf, Slot.sequencer, hf, hn]) hmove
  have htotal' : (got ++ l.toList).length + 4 * n = 4 * x.pkt.nfr.toNat := by
    rw [List.length_append, Vector.length_toList]
    omega
  by_cases h0 : n = 0
  · rw [if_pos (by dsimp only; omega)] at hrun
    exact ⟨_, hrun, rfl, rfl, hl, by simp [h0], rfl, htotal', by simp [h0], hgot'⟩
  · rw [if_neg (by dsimp only; omega)] at hrun
    refine ⟨_, hrun, rfl, rfl, hl, by simp [hf, h0], rfl, htotal', fun _ => ⟨rfl, ?_⟩, hgot'⟩
    rw [hcount, List.length_append, Vector.length_toList]
    dsimp only
    omega

theorem frmBytes_toList (l : Vector Byte 4) : (frmBytes l).toList = frmData l ++ [ck (frmData l)] := rfl

/-- The six bytes of `FRM` are accepted while frames are to come (R196, R198). -/
theorem SlotRun.frame {f : PktFields} {got : List Byte} {n : Nat} {l : Vector Byte 4} {rs : List RdResult}
    (h : x.Awaits f got (n + 1) 0) (hmax : f.nfr.toNat ≤ p.maxFrames.val) (hs : x.stream = (frmBytes l).toList.map .byte ++ rs) :
    ∃ y, SlotRun p a d k 6 x [] y ∧ x.readerOnly y ∧ y.stream = rs ∧ y.Awaits f (got ++ l.toList) n 0 := by
  have ⟨hl, hf, hp, htotal, hnext, hgot⟩ := h
  obtain ⟨h0, hidx⟩ := hnext n.succ_ne_zero
  rw [if_neg n.succ_ne_zero] at hf
  have hclean : ∀ b ∈ frmData l, topBit b = false := fun b hb => frmBytes_clean l b (List.mem_append_left [_] hb)
  rw [frmBytes_toList, List.map_append, List.append_assoc] at hs
  obtain ⟨fb, hdata, hrun⟩ := SlotRun.frameData hl hf (Fin.ext h0) hclean rfl hs
  have hfull : fb.set 5 (ck (frmData l)) = frmBytes l := by
    rw [← Vector.toList_inj, toList_set_last, hdata, frmBytes_toList]
  obtain ⟨y, hlast, honly, hsy, hy⟩ := SlotRun.frameLast (x := { x with fbuf := fb, fpos := Fin.last 5, stream := _ })
    ⟨hl, h.fsm, hp, htotal, fun _ => ⟨rfl, hidx⟩, hgot⟩ hmax (hfull ▸ frameDecode_frmBytes l) rfl
  exact ⟨y, hrun.trans_quiet hlast, Slot.readerOnly_trans rfl honly, hsy, hy⟩

/-- All frames to come are read, and the packet is whole (R196, R198). -/
theorem SlotRun.frames {f : PktFields} {got : List Byte} {ls : List (Vector Byte 4)} {rs : List RdResult}
    (h : x.Awaits f got ls.length 0) (hmax : f.nfr.toNat ≤ p.maxFrames.val)
    (hs : x.stream = (ls.flatMap fun l => (frmBytes l).toList).map .byte ++ rs) :
    ∃ y, SlotRun p a d k (ls.flatMap fun l => (frmBytes l).toList).length x [] y ∧ x.readerOnly y ∧ y.stream = rs ∧
      y.Awaits f (got ++ ls.flatMap Vector.toList) 0 0 := by
  induction ls generalizing x got with
  | nil => exact ⟨x, .zero x, rfl, hs, by simpa using h⟩
  | cons l ls ih =>
    rw [List.flatMap_cons, List.map_append, List.append_assoc] at hs
    obtain ⟨y, hrun, honly, hsy, hy⟩ := SlotRun.frame h hmax hs
    obtain ⟨z, hrun', honly', hsz, hz⟩ := ih hy hsy
    refine ⟨z, ?_, Slot.readerOnly_trans honly honly', hsz, by simpa using hz⟩
    rw [List.flatMap_cons, List.length_append]
    exact hrun.trans_quiet hrun'

/-- Marker, header and frames, read from hunting on, are a whole packet (R103, R206). -/
theorem SlotRun.packet {f : PktFields} {ls : List (Vector Byte 4)} {rs : List RdResult} (hl : x.life = .running)
    (hf : x.fsm = .hunting) (hw : wireFields f = true) (hmax : f.nfr.toNat ≤ p.maxFrames.val)
    (ha : p.allocMayFail = true → a.allocOk = true) (hls : ls.length = f.nfr.toNat)
    (hs : x.stream = (p.marker :: (hdrBytes f).toList ++ ls.flatMap fun l => (frmBytes l).toList).map .byte ++ rs) :
    ∃ y, SlotRun p a d k (p.marker :: (hdrBytes f).toList ++ ls.flatMap fun l => (frmBytes l).toList).length x [] y ∧
      x.readerOnly y ∧ y.stream = rs ∧ y.Awaits f (ls.flatMap Vector.toList) 0 0 := by
  rw [List.map_append, List.map_cons, List.append_assoc, List.cons_append] at hs
  obtain ⟨y1, hrun1, honly1, hs1, hl1, hf1, h01⟩ := SlotRun.marker hl hf hs
  obtain ⟨y2, hrun2, honly2, hs2, hy2⟩ := SlotRun.header hl1 hf1 h01 hw hmax ha hs1
  obtain ⟨y3, hrun3, honly3, hs3, hy3⟩ := SlotRun.frames (hls ▸ hy2) hmax hs2
  refine ⟨y3, ?_, Slot.readerOnly_trans honly1 (Slot.readerOnly_trans honly2 honly3), hs3, hy3⟩
  rw [List.cons_append, List.length_cons, List.length_append, Vector.length_toList, Nat.add_comm _ 1]
  exact hrun1.trans_quiet (hrun2.trans_quiet hrun3)

/-- With no frame to come the packet the handler sees is the header's fields and the bytes received (R84). -/
theorem Slot.Awaits.packet_eq {f : PktFields} {got : List Byte} {q : Nat} (h : x.Awaits f got 0 q) (n : Nat) :
    x.packet n = { fields := f, payload := got } := by
  obtain ⟨-, -, rfl, htotal, -, hgot⟩ := h
  have hlen : (x.packet n).payload.length = got.length := by simp [Slot.packet]; omega
  have hpay : (x.packet n).payload = got := List.ext_getElem hlen fun i _ hi => by
    rw [← Option.some_inj, ← List.getElem?_eq_getElem, ← List.getElem?_eq_getElem]
    rw [Slot.packet_payload_getElem? (by omega) ((hgot i hi).trans (List.getElem?_eq_getElem hi)), List.getElem?_eq_getElem hi]
  rw [← hpay]
  rfl

end

/-! ### The bytes of a packet -/

/-- A payload in whole groups is the groups, one after another (R119). -/
theorem flatMap_and_length_groups (pay : List Byte) (h : pay.length % 4 = 0) :
    (groups pay).flatMap Vector.toList = pay ∧ (groups pay).length = pay.length / 4 := by
  fun_induction groups pay with
  | case1 b0 b1 b2 b3 rest ih =>
    obtain ⟨hflat, hlen⟩ := ih (by simp at h; omega)
    refine ⟨?_, ?_⟩
    · rw [List.flatMap_cons, hflat]; rfl
    · simp only [List.length_cons, hlen]; omega
  | case2 pay hpay =>
    match pay, hpay, h with
    | [], _, _ => exact ⟨rfl, rfl⟩
    | b0 :: b1 :: b2 :: b3 :: rest, hpay, _ => exact absurd rfl (hpay b0 b1 b2 b3 rest)

/-- The bytes `PKT` stands for, where its arguments are in range (R103, R119). -/
theorem pktBytes_eq_ok {m : Byte} {dst src : Half} {rev : Byte} {cmd : Half} {pay bs : List Byte}
    (h : pktBytes m dst src rev cmd pay = .ok bs) :
    ∃ f : PktFields, f = { dst := dst, src := src, rev := rev, cmd := cmd, nfr := BitVec.ofNat 8 (pay.length / 4) } ∧
      f.nfr.toNat = pay.length / 4 ∧ pay.length % 4 = 0 ∧ wireFields f = true ∧
      bs = m :: (hdrBytes f).toList ++ (groups pay).flatMap fun l => (frmBytes l).toList := by
  unfold pktBytes at h
  dsimp only at h
  split at h
  · next hc =>
    obtain ⟨hmod, hmax, hw⟩ := hc
    exact ⟨_, rfl, by simp; omega, hmod, hw, (Except.ok.inj h).symm⟩
  · cases h

/-- Settles O60: the packet's bytes make a run of the slot without effects (`SlotRun.packet`), and the turn after it calls the
handler with the packet received. -/
theorem intactPacketIsDelivered : Obligations.IntactPacketIsDelivered := by
  intro s k a dst src rev cmd pay bs more rest hl hf hc hbs hmax ha hs hin
  obtain ⟨f, hfields, hnfr, hmod, hw, rfl⟩ := pktBytes_eq_ok hbs
  obtain ⟨hflat, hlen⟩ := flatMap_and_length_groups pay hmod
  rw [← hnfr] at hlen hmax
  obtain ⟨z, hread, hz, hsz, hawaits⟩ := SlotRun.packet (d := s.draw) (k := k) hl hf hw hmax ha hlen hs
  have hcall : z.call = none := by rw [hz]; exact hc
  have hhandle : z.handle = (s.slot k).handle := by rw [hz]
  have hcfg : z.cfg = (s.slot k).cfg := by rw [hz]
  have hdeliver : SlotRun s.params a s.draw k 1 z _ _ :=
    .succ (.deliver hawaits.running hawaits.fsm hcall) (.deliver hawaits.running hawaits.fsm hcall) (.zero _)
  obtain ⟨t, ht, hk, hother, heff, hrest⟩ := (hread.trans hdeliver).run hin
  rw [hawaits.packet_eq, hflat, hfields, hhandle, hcfg] at heff
  exact ⟨t, ht, heff, hk ▸ hawaits.fsm, hk ▸ rfl, hk ▸ hsz, hother, hrest⟩

end Sys2Proof.Machine
end

section
/-!
PROOFS. The lifecycle family (43_lifecycle.md): the exactly-once account of the sentinel is kept by every step (O53); REGISTER (O32);
START, where it launches (O33, O34), where it fails (O35 to O37) and that it makes no handler call (O38); JOIN (O40 to O42); the
teardown events (O44 to O46) and their order (O47).
-/

namespace Sys2Proof.Machine

/-! ### The record of handler calls -/

section
variable {e : Effect} {es es' : List Effect} {h : Nat}

/-- A sentinel call is a handler call of the same instance (R273). -/
theorem Effect.callOf_of_sentinelOf (he : e.sentinelOf = some h) : e.callOf = some h := by
  cases e
  case sentinel => exact he
  all_goals cases he

/-- An instance has made no sentinel call exactly where none of its stands in the record. -/
theorem sentinelCount_eq_zero_iff : sentinelCount h es = 0 ↔ ∀ e ∈ es, e.sentinelOf ≠ some h := by
  simp [sentinelCount, List.countP_eq_zero]

theorem sentinelCount_cons : sentinelCount h (e :: es) = sentinelCount h es + if e.sentinelOf = some h then 1 else 0 := by
  simp [sentinelCount, List.countP_cons]

/-- Quiet effects hold no sentinel call. -/
theorem sentinelCount_quiet_append (hq : Quiet es') : sentinelCount h (es' ++ es) = sentinelCount h es := by
  have h0 : sentinelCount h es' = 0 := sentinelCount_eq_zero_iff.mpr fun e he hs => by
    simpa [hq e he] using Effect.callOf_of_sentinelOf hs
  rw [sentinelCount, List.countP_append]
  exact (congrArg (· + sentinelCount h es) h0).trans (Nat.zero_add _)

/-- Quiet effects leave the record quiet after each sentinel (R269). -/
theorem quietAfterSentinel_quiet_append (hq : Quiet es') (hs : quietAfterSentinel es) : quietAfterSentinel (es' ++ es) := by
  have hno : ∀ e ∈ es', ∀ o : Effect, ∀ h ∈ e.callOf, o.sentinelOf ≠ some h := fun e he o h hh => by simp [hq e he] at hh
  exact List.pairwise_append.mpr ⟨List.Pairwise.imp_of_mem (fun he _ _ => hno _ he _) (List.pairwise_of_forall fun _ _ => trivial),
    hs, fun e he o _ => hno e he o⟩

/-- A handler call of an instance that has made no sentinel call leaves the record quiet after each sentinel (R269). -/
theorem quietAfterSentinel_call_cons (hc : e.callOf = some h) (h0 : sentinelCount h es = 0) (hs : quietAfterSentinel es) :
    quietAfterSentinel (e :: es) := by
  refine List.pairwise_cons.mpr ⟨fun o ho h' hh => ?_, hs⟩
  obtain rfl : h = h' := Option.some.inj (hc.symm.trans hh)
  exact sentinelCount_eq_zero_iff.mp h0 o ho

end

/-! ### The account of the sentinel -/

/-- The exactly-once account of one instance (R269): one sentinel call in the record once it has begun it, none before. -/
abbrev Slot.account (es : List Effect) (x : Slot) : Prop := sentinelCount x.handle es = if x.sentinelBegun then 1 else 0

section
variable {s t u : State}

/-- The account of the machine, with that of its instances slot by slot. -/
theorem State.sentinelInv_iff : s.sentinelInv ↔
    (∀ e ∈ s.effects, ∀ h ∈ e.callOf, h < s.nextHandle) ∧ quietAfterSentinel s.effects ∧
      ∀ k, (s.slot k).live → (s.slot k).account s.effects := by
  refine and_congr_right' (and_congr_right' ⟨fun ⟨hone, hzero⟩ k hl => ?_, fun hacc => ⟨fun i _ hl hb => ?_, fun i _ hl hb => ?_⟩⟩)
  · by_cases hb : (s.slot k).sentinelBegun
    · rw [Slot.account, if_pos hb, hone k (s.slot_listed k hl) hl hb]
    · rw [Slot.account, if_neg hb, hzero k (s.slot_listed k hl) hl hb]
  · rw [hacc i hl, if_pos hb]
  · rw [hacc i hl, if_neg hb]

/-- Live instances with one handle are one instance (R305). -/
theorem State.eq_of_handle_eq {i j : Nat} (hi : s.handlesInv) (h1 : (s.slot i).live) (h2 : (s.slot j).live)
    (he : (s.slot i).handle = (s.slot j).handle) : i = j :=
  Option.some.inj ((State.findHandle_of_live hi h1 he).symm.trans (State.findHandle_of_live hi h2 rfl))

/-- Slot `y` holds the instance of slot `x`, which has begun its sentinel in both or in neither. -/
abbrev Slot.sameAccount (x y : Slot) : Prop := x.live ∧ y.handle = x.handle ∧ (y.sentinelBegun ↔ x.sentinelBegun)

/-- From `s` to `t` no handler call is made, and each instance of `t` is one of `s` with the same account, or a new one whose
handle nobody had and which has not begun its sentinel. -/
def State.quietly (s t : State) : Prop :=
  (∃ es, Quiet es ∧ t.effects = es ++ s.effects) ∧ s.nextHandle ≤ t.nextHandle ∧
    ∀ k, (t.slot k).live → (s.slot k).sameAccount (t.slot k) ∨
      (s.nextHandle ≤ (t.slot k).handle ∧ ¬ (t.slot k).sentinelBegun)

/-- A handle nobody had is that of no sentinel call. -/
theorem State.sentinelCount_of_unused {h : Nat} (hs : s.sentinelInv) (hh : s.nextHandle ≤ h) : sentinelCount h s.effects = 0 :=
  have ⟨hused, _⟩ := hs
  sentinelCount_eq_zero_iff.mpr fun e he hc => absurd (hused e he h (Effect.callOf_of_sentinelOf hc)) hh.not_gt

/-- What makes no handler call keeps the account. -/
theorem State.sentinelInv_of_quietly (hs : s.sentinelInv) (h : s.quietly t) : t.sentinelInv := by
  obtain ⟨⟨es, hq, he⟩, hn, hslot⟩ := h
  obtain ⟨hused, hquiet, hacc⟩ := State.sentinelInv_iff.mp hs
  refine State.sentinelInv_iff.mpr ⟨fun e hm h hh => ?_, ?_, fun k hl => ?_⟩
  · rcases List.mem_append.mp (he ▸ hm) with hm | hm
    · simp [hq e hm] at hh
    · exact (hused e hm h hh).trans_le hn
  · exact he ▸ quietAfterSentinel_quiet_append hq hquiet
  · rw [Slot.account, he, sentinelCount_quiet_append hq]
    rcases hslot k hl with ⟨hl0, hh, hb⟩ | ⟨hh, hb⟩
    · rw [hh, hacc k hl0]
      exact if_congr hb.symm rfl rfl
    · rw [State.sentinelCount_of_unused hs hh, if_neg hb]

/-- A handler call of an instance that has not begun its sentinel keeps the account, where the instance has begun it afterwards
exactly if the call is the sentinel. -/
theorem State.sentinelInv_of_call {k : Nat} {y : Slot} {e : Effect} {d : Nat} (hs : s.sentinelInv) (hi : s.handlesInv)
    (hl : (s.slot k).live) (hb : ¬ (s.slot k).sentinelBegun) (hc : e.callOf = some (s.slot k).handle)
    (hh : y.handle = (s.slot k).handle) (hy : y.sentinelBegun ↔ e.sentinelOf = some (s.slot k).handle) :
    (s.moved k y [e] d).sentinelInv := by
  obtain ⟨hused, hquiet, hacc⟩ := State.sentinelInv_iff.mp hs
  have ⟨hbelow, _⟩ := hi
  have h0 : sentinelCount (s.slot k).handle s.effects = 0 := by rw [hacc k hl, if_neg hb]
  refine State.sentinelInv_iff.mpr ⟨fun e' hm h hh' => ?_, quietAfterSentinel_call_cons hc h0 hquiet, fun j hlj => ?_⟩
  · rcases List.mem_cons.mp hm with rfl | hm
    · obtain rfl : (s.slot k).handle = h := Option.some.inj (hc.symm.trans hh')
      exact hbelow k (s.slot_listed k hl) hl
    · exact hused e' hm h hh'
  · rw [Slot.account, show (s.moved k y [e] d).effects = e :: s.effects from rfl, sentinelCount_cons]
    rw [State.moved_slot] at hlj ⊢
    by_cases hj : j = k
    · rw [if_pos hj, hh, h0, Nat.zero_add]
      exact if_congr hy.symm rfl rfl
    · rw [if_neg hj] at hlj ⊢
      have hne : e.sentinelOf ≠ some (s.slot j).handle := fun hsj => hj (State.eq_of_handle_eq hi hlj hl
        (Option.some.inj ((Effect.callOf_of_sentinelOf hsj).symm.trans hc)))
      rw [if_neg hne, Nat.add_zero, hacc j hlj]

/-! ### What makes no handler call -/

/-- What waits on a slot is no part of its account. -/
theorem Slot.sameAccount_of_waitsOnly {x y : Slot} (h : x.waitsOnly y) (hl : y.live) : x.sameAccount y := by
  rw [h] at hl ⊢
  exact ⟨hl, rfl, Iff.rfl⟩

/-- A machine that has done nothing else and whose slots differ only in what waits on them. -/
abbrev State.sameButWaits (s t : State) : Prop :=
  t.effects = s.effects ∧ t.nextHandle = s.nextHandle ∧ ∀ k, (s.slot k).waitsOnly (t.slot k)

theorem State.quietly_of_sameButWaits (h : s.sameButWaits t) : s.quietly t :=
  have ⟨heff, hn, hslot⟩ := h
  ⟨⟨[], nofun, heff⟩, hn.ge, fun k hl => .inl (Slot.sameAccount_of_waitsOnly (hslot k) hl)⟩

/-- Hardware reset leaves no instance (R320). -/
theorem State.quietly_hardwareReset (s : State) : s.quietly s.hardwareReset :=
  ⟨⟨[], nofun, rfl⟩, le_rfl, fun _ hl => absurd rfl hl⟩

theorem State.quietly_startReturns (s : State) (hd : Nat) : s.quietly (s.startReturns hd) := by
  rcases s.startReturns_cases hd with e | ⟨k, -, -, e⟩ <;> rw [e]
  · exact State.quietly_of_sameButWaits ⟨rfl, rfl, fun _ => rfl⟩
  · exact ⟨⟨[.startResult (.ok hd)], by simp [Quiet, Effect.callOf], rfl⟩, le_rfl, fun j hl =>
      .inl (Slot.sameAccount_of_waitsOnly (s.setSlot_waitsOnly k _ rfl j) hl)⟩

/-- A JOIN frees a slot or waits, whatever waited before it looked (R252, R253). -/
theorem State.quietly_join {hd : Nat} (he : exec (.join hd) u = .next t) (hw : s.sameButWaits u) : s.quietly t := by
  obtain ⟨heff, hn, hu⟩ := hw
  have hslot : ∀ k, (t.slot k).live → (s.slot k).sameAccount (t.slot k) := fun k hl => by
    rcases execJoin_slot he k with ⟨-, e⟩ | hw
    · exact absurd (by rw [e]) hl
    · exact Slot.sameAccount_of_waitsOnly (Slot.waitsOnly_trans (hu k) hw) hl
  obtain ⟨hquiet, hnext⟩ : (∃ es, Quiet es ∧ t.effects = es ++ u.effects) ∧ t.nextHandle = u.nextHandle := by
    obtain ⟨k, -, -, -, ⟨-, rfl⟩ | ⟨-, rfl⟩⟩ := execJoin_next he
    · exact ⟨⟨[.joinResult hd _], by simp [Quiet, Effect.callOf], rfl⟩, rfl⟩
    · exact ⟨⟨[], nofun, rfl⟩, rfl⟩
  exact ⟨heff ▸ hquiet, (hnext.trans hn).ge, fun k hl => .inl (hslot k hl)⟩

/-- A write of one slot with quiet effects. -/
theorem State.quietly_of_slot {k : Nat} {y : Slot} {es : List Effect} (hq : Quiet es) (heff : t.effects = es ++ s.effects)
    (hn : s.nextHandle ≤ t.nextHandle) (ht : t.slots = setSlotAt s.slots k y)
    (hy : y.live → (s.slot k).sameAccount y ∨ (s.nextHandle ≤ y.handle ∧ ¬ y.sentinelBegun)) : s.quietly t := by
  refine ⟨⟨es, hq, heff⟩, hn, fun j hl => ?_⟩
  have hj : t.slot j = if j = k then y else s.slot j := (congrArg (slotAt · j) ht).trans (slotAt_setSlotAt ..)
  rw [hj] at hl ⊢
  split at hl
  · next e =>
    rw [if_pos e, e]
    exact hy hl
  · next e =>
    rw [if_neg e]
    exact .inl ⟨hl, rfl, Iff.rfl⟩

/-- A START makes no handler call, and the instance it launches has a handle of its own (R249, R242). -/
theorem State.quietly_start {path : DevPath} {raw : Bool} {hr : Option HandlerRef} {arg : HandlerArg}
    (he : exec (.start path raw hr arg) s = .next t) : s.quietly t := by
  obtain ⟨es, hq, rfl | ⟨k, c, dev, q, r, -, -, rfl | rfl⟩⟩ := execStart_next he
  · exact ⟨⟨es, hq, rfl⟩, le_rfl, fun _ hl => .inl ⟨hl, rfl, Iff.rfl⟩⟩
  · exact State.quietly_of_slot hq rfl le_rfl rfl fun hl => absurd rfl hl
  · exact State.quietly_of_slot hq rfl (Nat.le_succ _) rfl fun _ => .inr ⟨le_rfl, by simp [Slot.launch]⟩

/-- No operation from outside makes a handler call (R249). -/
theorem State.quietly_fromOutside {i : Instr} (ho : fromOutside i = true) (he : exec i s = .next t) : s.quietly t := by
  cases i <;> simp only [fromOutside, reduceCtorEq] at ho
  case start => exact State.quietly_start he
  case join => exact State.quietly_join he ⟨rfl, rfl, fun _ => rfl⟩
  case valid span =>
    rcases eq_or_ne span [] with rfl | hne
    · cases (exec_valid_nil s).symm.trans he
      exact State.quietly_of_sameButWaits ⟨rfl, rfl, fun _ => rfl⟩
    · cases (exec_valid_of_ne_nil s hne).symm.trans he
      exact State.quietly_of_sameButWaits ⟨rfl, rfl, fun _ => rfl⟩
  all_goals
    cases he
    exact State.quietly_of_sameButWaits ⟨rfl, rfl, fun _ => rfl⟩

/-! ### The moves of an instance -/

section
variable {p : Params} {a : Answers} {n k d : Nat} {x y : Slot} {i : Instr} {es : List Effect}

/-- Only an instance that exists moves. -/
theorem SlotMove.live (hm : SlotMove p a n k x i y es d) : x.live := by
  cases hm <;> simp [*]

/-- The reader's registers are no part of the account. -/
theorem Slot.sameAccount_of_readerOnly (hl : x.live) (h : x.readerOnly y) : x.sameAccount y := by
  rw [h]
  exact ⟨hl, rfl, Iff.rfl⟩

/-- All a move can do to the account of its instance: nothing; or it makes a handler call (R202, R266), before the sentinel has
begun, which has begun afterwards exactly if the call is the sentinel. -/
theorem SlotMove.account_cases (hm : SlotMove p a n k x i y es d) (h : x.lifeInv) :
    (Quiet es ∧ x.sameAccount y) ∨
    (¬ x.sentinelBegun ∧ y.handle = x.handle ∧
      ∃ e, es = [e] ∧ e.callOf = some x.handle ∧ (y.sentinelBegun ↔ e.sentinelOf = some x.handle)) := by
  have hx := hm.live
  cases hm
  case hdrLast => exact .inl ⟨nofun, Slot.sameAccount_of_readerOnly hx (Slot.acceptHeader_readerOnly ..)⟩
  case acceptHeader => exact .inl ⟨nofun, Slot.sameAccount_of_readerOnly hx (Slot.acceptHeader_readerOnly _ _ x x.hbuf)⟩
  case frmLast hy => exact .inl ⟨nofun, Slot.sameAccount_of_readerOnly hx (Slot.acceptFrame_readerOnly hy)⟩
  case acceptFrame hy =>
    exact .inl ⟨nofun, Slot.sameAccount_of_readerOnly hx (Slot.acceptFrame_readerOnly (fb := x.fbuf) hy)⟩
  case deliver hl _ hc =>
    obtain ⟨-, hrun, -⟩ := h
    obtain ⟨-, hdone, -⟩ := hrun hl
    exact .inr ⟨by simp [hc, hdone], rfl, _, rfl, rfl, by simp [Slot.sentinelBegun, hdone, Effect.sentinelOf]⟩
  case tdSentinel hd hc =>
    exact .inr ⟨by simp [hc, hd], rfl, _, rfl, rfl, by simp [Slot.sentinelBegun, Effect.sentinelOf]⟩
  case deliverRet hc _ => exact .inl ⟨nofun, hx, rfl, by simp [Slot.sentinelBegun, hc]⟩
  case tdSentinelRet hc _ => exact .inl ⟨nofun, hx, rfl, by simp [Slot.sentinelBegun, hc]⟩
  case tdRestore =>
    refine .inl ⟨?_, hx, rfl, Iff.rfl⟩
    split <;> simp [Quiet, Effect.callOf]
  case tdClose => exact .inl ⟨by simp [Quiet, Effect.callOf], hx, rfl, Iff.rfl⟩
  all_goals exact .inl ⟨nofun, hx, rfl, Iff.rfl⟩

end

/-- A turn of an instance keeps the account. -/
theorem State.sentinelInv_inst {k : Nat} {a : Answers} {rest : List Turn} (h : s.inv) (hin : s.inputs = .inst k a :: rest)
    (hs : step s = .next t) : t.sentinelInv := by
  obtain ⟨hslots, hhandles, hsent⟩ := h
  rcases step_inst hin hs with rfl | ⟨i, x, y, es, d, hf, hm, rfl⟩
  · exact hsent
  · obtain ⟨str, rfl⟩ := hf.exists_stream
    obtain ⟨-, -, -, -, hlife, -⟩ := State.slotsInv_slot hslots k
    rcases hm.account_cases hlife with ⟨hq, hy⟩ | ⟨hb, hh, e, rfl, hc, hy⟩
    · exact State.sentinelInv_of_quietly hsent (State.quietly_of_slot hq rfl le_rfl rfl fun _ => .inl hy)
    · exact State.sentinelInv_of_call (s := { s with inputs := rest, ans := a }) hsent hhandles hm.live hb hc hh hy

/-- Settles O53, by the turn the step takes: only an instance's own turn makes a handler call (`SlotMove.account_cases`), and what
makes none keeps the account (`State.sentinelInv_of_quietly`). -/
theorem stepKeepsSentinelExactlyOnce : Obligations.StepKeepsSentinelExactlyOnce := by
  intro s t h hs
  have ⟨_, _, hsent⟩ := h
  have quietly : s.quietly t → t.sentinelInv := State.sentinelInv_of_quietly hsent
  rcases step_cases hs with ⟨-, rfl⟩ | ⟨rest, -, rfl⟩ | ⟨i, a, rest, -, rfl | ⟨ho, he⟩⟩ | ⟨hd, rest, -, rfl⟩ |
    ⟨hd, rest, -, rfl | ⟨k, -, -, -, he⟩⟩ | ⟨k, hd, rest, -, rfl | ⟨-, -, ⟨-, he⟩ | ⟨-, he⟩⟩⟩ | ⟨k, a, rest, hin⟩
  · exact hsent
  · exact quietly (State.quietly_hardwareReset { s with inputs := rest })
  · exact hsent
  · exact quietly (State.quietly_fromOutside (s := { s with inputs := rest, ans := a }) ho he)
  · exact quietly (State.quietly_startReturns { s with inputs := rest } hd)
  · exact hsent
  · refine quietly (State.quietly_join he ⟨rfl, rfl, fun j => ?_⟩)
    rw [State.resumeCalls_slot]
    exact Slot.waitsOnly_trans (({ s with inputs := rest } : State).setSlot_waitsOnly k _ rfl j) (Slot.resumeCall_waitsOnly hd _)
  · exact hsent
  · exact quietly (State.quietly_join he ⟨rfl, rfl, ({ s with inputs := rest } : State).setSlot_waitsOnly k _ rfl⟩)
  · exact quietly (State.quietly_join he ⟨rfl, rfl, fun _ => rfl⟩)
  · exact State.sentinelInv_inst h hin hs

end

/-! ### REGISTER -/

/-- Settles O32. -/
theorem registerSetsTheBitOnly : Obligations.RegisterSetsTheBitOnly := by
  refine fun s => ⟨rfl, fun h => ?_⟩
  change Host.Outcome.next { s with registered := true } = _
  rw [← h]

/-! ### START -/

/-- Settles O38: all a START can do is in `execStart_next`. -/
theorem startMakesNoHandlerCall : Obligations.StartMakesNoHandlerCall := by
  intro s t path raw h arg he
  obtain ⟨es, hq, rfl | ⟨k, c, dev, q, r, -, -, rfl | rfl⟩⟩ := execStart_next he <;> exact ⟨es, rfl, hq⟩

section
variable {s : State} {k : Nat} {path : DevPath} {dev : DevHandle} {x : Slot}

/-- START that finds no slot is given none (R244). -/
theorem State.allocSlot_of_noSlot (h : s.noSlot) : s.allocSlot = none := by
  cases ha : s.allocSlot with
  | none => rfl
  | some k =>
    obtain ⟨hfree, hgranted, -, hmax⟩ := s.allocSlot_some k ha
    rcases h with hno | ⟨n, hn, hlive⟩
    · simp [hno] at hgranted
    · exact absurd hfree (hlive k (hmax n hn))

/-- A device no live instance holds is shared with none (R306). -/
theorem State.sharesDevice_of_unused (h : s.deviceUnused path dev) : s.sharesDevice path dev = false := by
  refine List.any_eq_false.mpr fun y hy hc => ?_
  simp only [Bool.and_eq_true, Bool.or_eq_true, bne_iff_ne, beq_iff_eq] at hc
  obtain ⟨⟨hl, ho⟩, hsame⟩ := hc
  obtain ⟨hdev, hpath⟩ := h y hy hl ho
  exact hsame.elim hdev hpath

/-- The state in which START has its device open (R244). -/
def State.withDevice (s : State) (path : DevPath) (dev : DevHandle) : State :=
  { s with effects := s.openEffects path dev ++ s.effects }

/-- START goes on with its slot and its device, the parameters latched (R242 to R245). -/
theorem exec_start_of_opensAs {raw : Bool} {h : HandlerRef} {arg : HandlerArg} (hr : s.registered = true) (hk : s.takesSlot k)
    (hd : s.opensAs path dev) :
    exec (.start path raw (some h) arg) s =
      (s.withDevice path dev).configure k ((s.slot k).latch { path := path, raw := raw, handler := h, arg := arg } dev)
        (decide (path ≠ s.params.stdStreamPath)) := by
  change execStart path raw (some h) arg s = _
  rw [execStart, if_neg (by simp [hr])]
  rcases hd with ⟨hp, rfl⟩ | ⟨hp, ho⟩
  · simp only [State.allocSlot_of_takesSlot hk, if_pos hp, State.startOn, State.withDevice, State.openEffects]
    simp [hp]
  · simp only [State.allocSlot_of_takesSlot hk, if_neg hp, ho, State.startOn, State.withDevice, State.openEffects]
    simp [hp, State.emit, State.slot]

/-! ### START: the configuration of the device -/

section
variable {c : InstCfg} {opened : Bool} {q : DevConfig}

/-- With `raw = 0` START leaves the device's configuration alone (R246). -/
theorem State.configure_of_not_raw (hc : c.raw = false) :
    s.configure k (x.latch c dev) opened = s.launch k (x.latch c dev) opened := if_pos hc

/-- With `raw = 1` a query that fails ends START (R246). -/
theorem State.configure_of_query_fails (hc : c.raw = true) (hq : s.ans.queryAns = none) :
    (s.withDevice path dev).configure k (x.latch c dev) opened =
      .next (((s.withDevice path dev).emit (.devQueryCfg dev none)).cleanup k (x.latch c dev) opened .configQueryFailed) := by
  simp [State.configure, State.withDevice, Slot.latch, hc, hq]

/-- The state in which START has queried the device's configuration and has tried to set raw mode (R246). -/
def State.rawTried (s : State) (path : DevPath) (dev : DevHandle) (q : DevConfig) (ok : Bool) : State :=
  { s with effects := ([.devSetRaw dev s.params.rawBaud ok, .devQueryCfg dev (some q)] ++ s.openEffects path dev) ++ s.effects }

/-- With `raw = 1` a set that fails ends START (R246). -/
theorem State.configure_of_set_fails (hc : c.raw = true) (hq : s.ans.queryAns = some q) (hs : s.ans.setRawOk = false) :
    (s.withDevice path dev).configure k (x.latch c dev) opened =
      .next ((s.rawTried path dev q false).cleanup k (x.prepared c dev q false) opened .configSetFailed) := by
  simp [State.configure, State.withDevice, State.rawTried, State.emit, Slot.prepared, Slot.latch, hc, hq, hs]

/-- With `raw = 1`, query and set done, START launches with the configuration saved (R246). -/
theorem State.configure_of_set (hc : c.raw = true) (hq : s.ans.queryAns = some q) (hs : s.ans.setRawOk = true) :
    (s.withDevice path dev).configure k (x.latch c dev) opened =
      (s.rawTried path dev q true).launch k (x.prepared c dev q true) opened := by
  simp [State.configure, State.withDevice, State.rawTried, State.emit, Slot.prepared, Slot.latch, hc, hq, hs]

end

/-! ### START: launch and cleanup -/

section
variable {u : State} {es : List Effect}

/-- A launch that succeeds, from a state `u` in which START has made the effects `es` (R247): the slot holds the instance, and no
other is written. -/
theorem State.launch_of_ok {opened : Bool} (hu : u = { s with effects := es ++ s.effects }) (hr : s.registered = true)
    (hl : s.ans.launchOk = true) (hd : s.deviceUnused x.cfg.path x.dev) :
    ∃ t, u.launch k x opened = .next t ∧ t.slot k = x.launch s.nextHandle s.ans.stream ∧
      (∀ j, j ≠ k → t.slot j = s.slot j) ∧ t.registered = true ∧ t.nextHandle = s.nextHandle + 1 ∧ s.hostFrame t ∧
      t.effects = es ++ s.effects := by
  subst hu
  refine ⟨_, (if_neg (by simp [hl])).trans (if_neg ?_), ?_, fun j hj => ?_, hr, rfl, ⟨rfl, rfl, rfl, rfl, rfl⟩, rfl⟩
  · exact ne_true_of_eq_false (State.sharesDevice_of_unused hd)
  · exact (slotAt_setSlotAt ..).trans (if_pos rfl)
  · exact (slotAt_setSlotAt ..).trans (if_neg hj)

/-- A launch that fails ends START (R247). -/
theorem State.launch_of_fails {opened : Bool} (hl : s.ans.launchOk = false) :
    s.launch k x opened = .next (s.cleanup k x opened .launchFailed) := if_pos hl

/-- `t` is `s` with slot `k` freed by a failed START that has made the effects `es` (R248, log 22). -/
def State.startFreed (s : State) (k : Nat) (es : List Effect) (t : State) : Prop :=
  (t.slot k).life = .free ∧ (t.slot k).devOpen = false ∧ (t.slot k).cfgChanged = false ∧
    (∀ j, j ≠ k → t.slot j = s.slot j) ∧ t.registered = true ∧ t.nextHandle = s.nextHandle ∧ s.hostFrame t ∧
    t.effects = es ++ s.effects

/-- What the cleanup of a failed START writes: the slot, and the restore, the close and the result (R248). -/
theorem State.cleanup_eq_writes (s : State) (k : Nat) (x : Slot) (opened : Bool) (r : StartReason) :
    s.cleanup k x opened r = { s with
      slots := setSlotAt s.slots k { x with cfgChanged := false, devOpen := false, life := .free }
      effects := .startResult (.fail r) :: ((if opened then [.devClose x.dev s.ans.closeOk] else []) ++
        ((if x.cfgChanged then [.devSetCfg x.dev x.savedCfg s.ans.restoreOk] else []) ++ s.effects)) } := by
  simp only [State.cleanup, State.restoreCfg_eq]
  cases opened <;> rfl

/-- The cleanup of a START that fails after it has made the effects `es`, in the state `u`; `es'` are its effects in all. -/
theorem State.cleanup_startFreed {es' : List Effect} (r : StartReason) (hu : u = { s with effects := es ++ s.effects })
    (hr : s.registered = true)
    (hes : [.startResult (.fail r)] ++ s.closeEffects path x.dev ++
      (if x.cfgChanged then [.devSetCfg x.dev x.savedCfg s.ans.restoreOk] else []) ++ es = es') :
    s.startFreed k es' (u.cleanup k x (decide (path ≠ s.params.stdStreamPath)) r) := by
  subst hu hes
  rw [State.cleanup_eq_writes]
  have hslot := slotAt_setSlotAt s.slots k (x := { x with cfgChanged := false, devOpen := false, life := .free })
  have hk := (hslot k).trans (if_pos rfl)
  refine ⟨congrArg Slot.life hk, congrArg Slot.devOpen hk, congrArg Slot.cfgChanged hk,
    fun j hj => (hslot j).trans (if_neg hj), hr, rfl, ⟨rfl, rfl, rfl, rfl, rfl⟩, ?_⟩
  simp [State.closeEffects]

end

end

/-- Settles O33. -/
theorem startWithoutRawModeLaunches : Obligations.StartWithoutRawModeLaunches := by
  intro s k path h arg dev hr hk hd hu hl
  obtain ⟨t, ht, hslot, hframe⟩ := State.launch_of_ok (s := s) (u := s.withDevice path dev) (k := k)
    (x := (s.slot k).latch { path := path, raw := false, handler := h, arg := arg } dev)
    (opened := decide (path ≠ s.params.stdStreamPath)) rfl hr hl hu
  refine ⟨t, ?_, by rw [hslot]; rfl, hframe⟩
  rw [exec_start_of_opensAs hr hk hd, State.configure_of_not_raw rfl, ht]

/-- Settles O34. -/
theorem startInRawModeSavesConfigurationAndLaunches : Obligations.StartInRawModeSavesConfigurationAndLaunches := by
  intro s k path h arg dev q hr hk hd hu hq hs hl
  obtain ⟨t, ht, hslot, hframe⟩ := State.launch_of_ok (s := s) (u := s.rawTried path dev q true) (k := k)
    (x := (s.slot k).prepared { path := path, raw := true, handler := h, arg := arg } dev q true)
    (opened := decide (path ≠ s.params.stdStreamPath)) rfl hr hl hu
  refine ⟨t, ?_, by rw [hslot]; rfl, hframe⟩
  rw [exec_start_of_opensAs hr hk hd, State.configure_of_set rfl hq hs, ht]

/-- Settles O35: the checks of D9, in their order. -/
theorem startFailsBeforeADeviceIsOpen : Obligations.StartFailsBeforeADeviceIsOpen := by
  refine fun s path raw h arg => ⟨fun hr => if_pos hr, fun hr hn => ?_, fun k hr hk hp ho => ?_⟩ <;>
    change execStart path raw h arg s = _ <;> rw [execStart, if_neg (by simp [hr])]
  · simp only [State.allocSlot_of_noSlot hn]
    rfl
  · simp only [State.allocSlot_of_takesSlot hk, if_neg hp, ho]
    rfl

/-- Settles O36. -/
theorem startFailsInConfigurationAndCleansUp : Obligations.StartFailsInConfigurationAndCleansUp := by
  refine fun s k path h arg dev hr hk hd => ⟨fun hq => ?_, fun q hq hs => ?_⟩ <;> rw [exec_start_of_opensAs hr hk hd]
  · rw [State.configure_of_query_fails rfl hq]
    exact ⟨_, rfl, State.cleanup_startFreed (es := .devQueryCfg dev none :: s.openEffects path dev) _ rfl hr (by simp [Slot.latch])⟩
  · rw [State.configure_of_set_fails rfl hq hs]
    exact ⟨_, rfl, State.cleanup_startFreed _ rfl hr (by simp [Slot.prepared, Slot.latch])⟩

/-- Settles O37. -/
theorem startFailsAtLaunchAndCleansUp : Obligations.StartFailsAtLaunchAndCleansUp := by
  refine fun s k path h arg dev hr hk hd hl => ⟨?_, fun q hq hs => ?_⟩ <;> rw [exec_start_of_opensAs hr hk hd]
  · rw [State.configure_of_not_raw rfl, State.launch_of_fails (s := s.withDevice path dev) hl]
    exact ⟨_, rfl, State.cleanup_startFreed (es := s.openEffects path dev) _ rfl hr (by simp [Slot.latch])⟩
  · rw [State.configure_of_set rfl hq hs, State.launch_of_fails (s := s.rawTried path dev q true) hl]
    exact ⟨_, rfl, State.cleanup_startFreed _ rfl hr (by simp [Slot.prepared, Slot.latch])⟩

/-! ### JOIN -/

section
variable {s : State} {k h : Nat}

/-- JOIN of a handle that is found, by what waits on its slot and its lifecycle state (R252, R253, R255). -/
theorem exec_join_of_found (hk : s.findHandle h = some k) :
    exec (.join h) s =
      if (s.slot k).okPending || (s.slot k).joinWait then .refused .joinNotAdmitted
      else if (s.slot k).life = .stopped then
        .next ((s.setSlot k { s.slot k with life := .free }).emit (.joinResult h (s.slot k).exit))
      else .next (s.setSlot k { s.slot k with joinWait := true }) := by
  change execJoin h s = _
  simp only [execJoin, hk]

/-- JOIN of a handle that is not found is refused (R255). -/
theorem exec_join_of_not_found (hn : s.findHandle h = none) : exec (.join h) s = .refused .joinNotAdmitted := by
  change execJoin h s = _
  simp only [execJoin, hn]

/-- A handle that no live slot has is not found. -/
theorem State.findHandle_eq_none (hn : ∀ k, (s.slot k).live → (s.slot k).handle ≠ h) : s.findHandle h = none := by
  cases hf : s.findHandle h with
  | none => rfl
  | some k =>
    obtain ⟨-, hl, hh⟩ := s.findHandle_some h k hf
    exact absurd hh (hn k hl)

/-- The turn of a JOIN that waits, where its handle is found (R253). -/
theorem fetchWake_of_found (hk : s.findHandle h = some k) :
    fetchWake h s =
      if (s.slot k).life = .stopped ∧ (s.slot k).joinWait then
        .run (.join h) ((s.setSlot k { s.slot k with joinWait := false }).resumeCalls h)
      else .idle s := by
  simp only [fetchWake, hk]

end

/-- Settles O40. -/
theorem joinOfStoppedInstanceReturnsItsExitValue : Obligations.JoinOfStoppedInstanceReturnsItsExitValue := by
  intro s k h hi hl hh hok hj
  rw [exec_join_of_found (State.findHandle_of_live hi (by simp [hl]) hh), if_neg (by simp [hok, hj]), if_pos hl]
  rfl

/-- Settles O41: the instance's handle is found in its own slot, both by the JOIN and by the turn in which it looks again. -/
theorem joinWaitsUntilStopped : Obligations.JoinWaitsUntilStopped := by
  refine ⟨fun s k h hi hl hh hok hj => ?_, fun s k h rest hi hin hl hh => ?_⟩
  · have hstop : (s.slot k).life ≠ .stopped := by rcases hl with e | e <;> simp [e]
    have hlive : (s.slot k).live := by rcases hl with e | e <;> simp [e]
    rw [exec_join_of_found (State.findHandle_of_live hi hlive hh), if_neg (by simp [hok, hj]), if_neg hstop]
  · have hwake := fetchWake_of_found (s := { s with inputs := rest }) (State.findHandle_of_live (s := s) hi hl hh)
    refine ⟨fun hstop hj => ?_, fun hstop => ?_⟩
    · rw [if_pos ⟨hstop, hj⟩] at hwake
      simp only [step, fetch, hin, hwake]
      rfl
    · rw [if_neg fun hc => hstop hc.1] at hwake
      simp only [step, fetch, hin, hwake]

/-- Settles O42. -/
theorem joinIsRefusedWithoutItsOneInstance : Obligations.JoinIsRefusedWithoutItsOneInstance := by
  refine ⟨fun s h hn => exec_join_of_not_found (State.findHandle_eq_none hn), fun s k h hi hl hh hw => ?_⟩
  rw [exec_join_of_found (State.findHandle_of_live hi hl hh), if_pos (by simpa using hw)]

/-! ### Teardown -/

/-- Settles O44. -/
theorem teardownRestoresThenCloses : Obligations.TeardownRestoresThenCloses := by
  refine ⟨fun s k hl ht => ?_, fun s k hl ht => (SlotMove.tdClose hl ht).exec_eq⟩
  rw [(SlotMove.tdRestore hl ht).exec_eq]
  cases (s.slot k).cfgChanged <;> rfl

/-- Settles O45. -/
theorem teardownDeliversTheSentinel : Obligations.TeardownDeliversTheSentinel :=
  ⟨fun _ _ hl ht hd hc => (SlotMove.tdSentinel hl ht hd hc).exec_eq,
    fun _ _ hl ht hc hj => (SlotMove.tdSentinelRet hl ht hc hj).exec_quiet⟩

/-- Settles O46. -/
theorem releaseStopsTheInstanceAndKeepsExit : Obligations.ReleaseStopsTheInstanceAndKeepsExit :=
  fun s k hl ht => ⟨{ (s.slot k).releaseWorker s.draw with life := .stopped }, (SlotMove.tdRelease hl ht).exec_eq, rfl⟩

/-- A slot whose teardown has only the release left to do (R261). -/
def Slot.toRelease (x : Slot) : Slot :=
  { x with cfgChanged := false, devOpen := false, call := none, sentinelDone := true, td := .release }

/-- Four turns from the start of teardown, in which the handler returns: restore, close, sentinel and its return, in this order
(R261). -/
theorem SlotRun.teardown {p : Params} {a : Answers} {d k : Nat} {x : Slot} (hl : x.life = .teardown) (ht : x.td = .restore)
    (hc : x.call = none) (hj : x.callJoin = none) (hd : x.sentinelDone = false) (hr : a.handlerReturns = true) :
    SlotRun p a d k 4 x
      ([.sentinel x.handle x.cfg.handler x.cfg.arg, .devClose x.dev a.closeOk] ++
        (if x.cfgChanged then [.devSetCfg x.dev x.savedCfg a.restoreOk] else [])) x.toRelease := by
  have hrun := SlotRun.succ (p := p) (a := a) (d := d) (k := k) (.tdRestore hl ht) (.tdRestore hl ht) <|
    .succ (.tdClose hl rfl) (.tdClose hl rfl) <|
    .succ (.tdSentinel hl rfl hc hd) (.tdSentinel hl rfl hd hc) <|
    .succ (.tdSentinelRet hl rfl rfl hr hj) (.tdSentinelRet hl rfl rfl hj) <| .zero _
  exact hrun

/-- A run and a step after it are a run. -/
theorem run_step {n : Nat} {s u t : State} (h : Sys2Proof.core.run n s = .next u) (hs : step u = .next t) :
    Sys2Proof.core.run (n + 1) s = .next t := by
  induction n generalizing s with
  | zero =>
    obtain rfl := run_zero.mp h
    exact run_of_step hs (run_zero.mpr rfl)
  | succ n ih =>
    obtain ⟨v, hv, hr⟩ := run_succ h
    exact run_of_step hv (ih hr)

/-- Settles O47: four turns up to the sentinel's return (`SlotRun.teardown`), and the turn that releases the worker state. -/
theorem teardownRunsInOrderToStopped : Obligations.TeardownRunsInOrderToStopped := by
  intro s k a rest hl ht hc hj hd hr hin
  obtain ⟨u, hu, hk, hother, heff, hrest⟩ := (SlotRun.teardown hl ht hc hj hd hr).run (rest := .inst k a :: rest) hin
  have hul : (u.slot k).life = .teardown := by rw [hk]; exact hl
  have hut : (u.slot k).td = .release := by rw [hk]; rfl
  refine ⟨_, run_step hu (step_of_move hrest (.tdRelease hul hut) (.tdRelease hul hut)), ?_⟩
  rw [State.moved_slot, if_pos rfl, hk]
  refine ⟨rfl, rfl, rfl, rfl, rfl, rfl, fun j hj => ?_, heff⟩
  rw [State.moved_slot, if_neg hj]
  exact hother j hj

end Sys2Proof.Machine
end


section
/-!
PROOFS. The exceptions family (60_exceptions.md): what a turn of an instance reads and writes, and the turns that pass (O16,
O57); that no byte stops the block (O54); the handles of the instances (O52); Abandon (O23) and the STARTs the model refuses
(O39) on their own; and that what an abandoned attempt leaves is never seen (O58).
-/

namespace Sys2Proof.Machine

/-! ### A turn of an instance, in both directions -/

section
variable {s t : State} {k : Nat} {a : Answers} {rest : List Turn} {i : Instr} {x : Slot}

/-- What `InstFetch` lists is what the turn selects. -/
theorem InstFetch.fetchInst_eq (h : InstFetch s.params.marker k (s.slot k) s.ans.handlerReturns i x) :
    ∃ u, fetchInst k s = .run i u := by
  have delivering := fetchInst_of_delivering (s := s) (k := k)
  have teardown := fetchInst_of_teardown (s := s) (k := k)
  cases h
  case read hl _ hs he => exact ⟨_, fetchInst_of_read hl hs he⟩
  case deliver hl hf hc =>
    obtain ⟨hcall, -⟩ := delivering hl hf
    exact ⟨s, hcall hc⟩
  case deliverRet hl hf hc hr hj =>
    obtain ⟨-, hret⟩ := delivering hl hf
    exact ⟨s, hret hc hr hj⟩
  case tdRestore hl ht =>
    obtain ⟨hrestore, -⟩ := teardown hl
    exact ⟨s, hrestore ht⟩
  case tdClose hl ht =>
    obtain ⟨-, hclose, -⟩ := teardown hl
    exact ⟨s, hclose ht⟩
  case tdSentinel hl ht hc hd =>
    obtain ⟨-, -, hsentinel, -⟩ := teardown hl
    exact ⟨s, hsentinel ht hc hd⟩
  case tdSentinelRet hl ht hc hr hj =>
    obtain ⟨-, -, -, hret, -⟩ := teardown hl
    exact ⟨s, hret ht hc hr hj⟩
  case tdRelease hl ht =>
    obtain ⟨-, -, -, -, hrelease⟩ := teardown hl
    exact ⟨s, hrelease ht⟩

/-- A turn passes exactly where its slot and its answers select nothing. -/
theorem fetchInst_idle_iff :
    fetchInst k s = .idle s ↔ ∀ i x, ¬ InstFetch s.params.marker k (s.slot k) s.ans.handlerReturns i x := by
  refine ⟨fun hidle i x hf => ?_, fun hno => ?_⟩
  · obtain ⟨u, hu⟩ := hf.fetchInst_eq
    simp [hidle] at hu
  · cases hf : fetchInst k s with
    | idle u => rw [fetchInst_idle hf]
    | run i u =>
      obtain ⟨x, hx, -⟩ := fetchInst_run hf
      exact absurd hx (hno i x)

/-- A turn whose slot selects nothing changes nothing but the turn taken and its answers (R308, R333). -/
theorem step_of_no_fetch (hin : s.inputs = .inst k a :: rest)
    (hno : ∀ i x, ¬ InstFetch s.params.marker k (s.slot k) a.handlerReturns i x) :
    step s = .next { s with inputs := rest, ans := a } := by
  have hidle := fetchInst_idle_iff (s := { s with inputs := rest, ans := a }) (k := k) |>.mpr hno
  simp only [step, fetch, hin, hidle]

/-- `step_inst`, with what a turn that passes says of its slot: nothing is selected from it. -/
theorem step_inst_cases (hin : s.inputs = .inst k a :: rest) (h : step s = .next t) :
    ((∀ i x, ¬ InstFetch s.params.marker k (s.slot k) a.handlerReturns i x) ∧ t = { s with inputs := rest, ans := a }) ∨
    ∃ i x y es d, InstFetch s.params.marker k (s.slot k) a.handlerReturns i x ∧ SlotMove s.params a s.draw k x i y es d ∧
      t = { s with inputs := rest, ans := a }.moved k y es d := by
  cases hf : fetchInst k { s with inputs := rest, ans := a } with
  | idle u =>
    have hno := fetchInst_idle_iff.mp (fetchInst_idle hf ▸ hf)
    exact .inl ⟨hno, Host.Outcome.next.inj (h.symm.trans (step_of_no_fetch hin hno))⟩
  | run i u =>
    obtain ⟨x, hx, hu⟩ := fetchInst_run hf
    rw [step_of_fetchInst hin hf] at h
    obtain ⟨y, es, d, hm, rfl⟩ := (exec_instance_iff i u t k hx.instance_eq).mp h
    refine .inr ⟨i, x, y, es, d, hx, ?_⟩
    obtain rfl | ⟨rfl, rfl⟩ := hu
    · exact ⟨by simpa using hm, by simp [State.moved, State.setSlot, setSlotAt_setSlotAt]⟩
    · exact ⟨hm, rfl⟩

end

/-- Settles O16: in none of these states does the slot select anything. -/
theorem waitingChangesNothing : Obligations.WaitingChangesNothing := by
  refine ⟨fun s hin => ?_, fun s k a rest hin hwait => step_of_no_fetch hin fun i x hf => ?_⟩
  · simp only [step, fetch, hin]
  · rcases hwait with ⟨hl, hfsm, hs⟩ | ⟨hl, hfsm, hc, hw⟩ | ⟨hl, ht, hc, hw⟩ | hl | hl
    all_goals cases hf <;> simp_all

/-- Settles O57: what the turn selects, and the move, are read off the slot, the parameters, the answers and the draws. -/
theorem instanceStepIsIndependent : Obligations.InstanceStepIsIndependent := by
  intro s u t k a rs ru hs hu hp hd hslot hstep
  rcases step_inst_cases hs hstep with ⟨hno, rfl⟩ | ⟨i, x, y, es, d, hf, hm, rfl⟩
  · rw [hp, hslot] at hno
    exact ⟨fun _ _ => rfl, rfl, rfl, _, [], step_of_no_fetch hu hno, hp.symm, hd.symm, hslot.symm, fun _ _ => rfl, rfl, rfl⟩
  · rw [hp, hslot] at hf
    rw [hp, hd] at hm
    have other (v : State) (r : List Turn) (j : Nat) (hj : j ≠ k) :
        (({ v with inputs := r, ans := a } : State).moved k y es d).slot j = v.slot j := by
      rw [State.moved_slot, if_neg hj]
      rfl
    refine ⟨other s rs, rfl, rfl, _, es, step_of_move hu hf hm, hp.symm, rfl, ?_, other u ru, rfl, rfl⟩
    simp only [State.moved_slot, if_true]

/-! ### A byte does not stop the block -/

/-- The event the map selects is one for the read result it was asked about (R114). -/
theorem encode_of_eventOf {m : Byte} {q : Sequencer} {k : Nat} {r : RdResult} {i : Instr} (h : eventOf m q k r = .ok i) :
    encode m i = some r := by
  cases r with
  | eos | err =>
    simp only [eventOf] at h
    split at h <;> cases h
    rfl
  | byte b =>
    unfold eventOf at h
    cases hf : q.fsm <;> simp only [hf] at h
    case hunting =>
      split at h <;> cases h
      · next hb => exact hb ▸ rfl
      · rfl
    case readingHeader =>
      split at h
      · cases h
        rfl
      · split at h <;> cases h <;> rfl
    case readingFrames =>
      split at h
      · split at h <;> cases h <;> rfl
      · cases h
        rfl
    case delivering => cases h

section
variable {p : Params} {a : Answers} {n k d : Nat} {x y : Slot} {i : Instr} {es : List Effect} {m b : Byte}

theorem Slot.acceptHeader_stream (alloc : Bool) : (x.acceptHeader p alloc b).stream = x.stream := by
  rcases x.acceptHeader_cases p alloc b with ⟨e, -⟩ | ⟨f, -, ⟨e, -⟩ | ⟨-, -, ⟨-, e⟩ | ⟨-, e⟩⟩⟩ <;> rw [e] <;> rfl

theorem Slot.acceptFrame_stream (h : x.acceptFrame p b = .ok y) : y.stream = x.stream := by
  rcases x.acceptFrame_cases p b y h with ⟨rfl, -⟩ | ⟨l, m, -, -, ⟨-, rfl⟩ | ⟨-, rfl⟩⟩ <;> rfl

theorem Slot.readerOnly_life (h : x.readerOnly y) : y.life = x.life := by rw [h]

/-- The event of a byte changes neither the lifecycle state nor the input stream. -/
theorem SlotMove.of_byte (hm : SlotMove p a n k x i y es d) (he : encode m i = some (.byte b)) :
    y.life = x.life ∧ y.stream = x.stream := by
  cases hm <;> simp only [encode, reduceCtorEq, Option.some.injEq] at he
  case hdrLast => exact ⟨Slot.readerOnly_life (Slot.acceptHeader_readerOnly ..), Slot.acceptHeader_stream _⟩
  case frmLast hy => exact ⟨Slot.readerOnly_life (Slot.acceptFrame_readerOnly hy), (Slot.acceptFrame_stream hy).trans rfl⟩
  all_goals exact ⟨rfl, rfl⟩

/-- Whatever byte an instance that meets the invariant reads selects an event, and the instance makes its move (R283). -/
theorem Slot.exists_move_of_byte (a : Answers) (n : Nat) (b : Byte) (h : x.inv p) (hl : x.life = .running)
    (hf : x.fsm ≠ .delivering) :
    ∃ i y es d, eventOf p.marker x.sequencer k (.byte b) = .ok i ∧ SlotMove p a n k x i y es d := by
  cases hfsm : x.fsm
  case hunting =>
    by_cases hb : b = p.marker
    · exact ⟨_, _, _, _, by simp [eventOf, Slot.sequencer, hfsm, hb], .huntMarker hl hfsm⟩
    · exact ⟨_, _, _, _, by simp [eventOf, Slot.sequencer, hfsm, hb], .huntSkip b hl hfsm hb⟩
  case readingHeader =>
    cases hb : topBit b
    · by_cases hn : x.hcnt.val < 8
      · exact ⟨_, _, _, _, by simp [eventOf, Slot.sequencer, hfsm, hb, hn], .hdrByte b hl hfsm hb hn⟩
      · exact ⟨_, _, _, _, by simp [eventOf, Slot.sequencer, hfsm, hb, hn], .hdrLast b hl hfsm hb (by omega)⟩
    · exact ⟨_, _, _, _, by simp [eventOf, Slot.sequencer, hfsm, hb], .hdrAbort b hl hfsm hb⟩
  case readingFrames =>
    by_cases hn : x.fpos.val < 5
    · cases hb : topBit b
      · exact ⟨_, _, _, _, by simp [eventOf, Slot.sequencer, hfsm, hb, hn], .frmByte b hl hfsm hb hn⟩
      · exact ⟨_, _, _, _, by simp [eventOf, Slot.sequencer, hfsm, hb, hn], .frmAbort b hl hfsm hb hn⟩
    · obtain ⟨-, hmax, hidx, -⟩ := Slot.inv_readingFrames h hl hfsm
      obtain ⟨y, hy⟩ := Slot.acceptFrame_ok p b { x with fbuf := x.fbuf.set 5 b } (hidx.trans_le hmax)
      exact ⟨_, y, _, _, by simp [eventOf, Slot.sequencer, hfsm, hn], .frmLast b y hl hfsm (by omega) hy⟩
  case delivering => exact absurd hfsm hf

end

/-! ### No step faults -/

section
variable {s t : State}

theorem State.launch_ne_fault (s : State) (k : Nat) (x : Slot) (opened : Bool) (e : Fault) :
    s.launch k x opened ≠ .fault e := by
  unfold State.launch
  split_ifs <;> exact nofun

theorem State.configure_ne_fault (s : State) (k : Nat) (x : Slot) (opened : Bool) (e : Fault) :
    s.configure k x opened ≠ .fault e := by
  unfold State.configure
  split
  · exact s.launch_ne_fault k x opened e
  · split
    · exact nofun
    · dsimp only
      split
      · exact nofun
      · exact State.launch_ne_fault _ _ _ _ e

theorem execStart_ne_fault (path : DevPath) (raw : Bool) (handler : Option HandlerRef) (arg : HandlerArg) (s : State)
    (e : Fault) : execStart path raw handler arg s ≠ .fault e := by
  have startOn (u : State) (k : Nat) (dev : DevHandle) (opened : Bool) :
      u.startOn k path raw handler arg dev opened ≠ .fault e := by
    unfold State.startOn
    split
    · exact nofun
    · exact State.configure_ne_fault _ _ _ _ e
  unfold execStart
  split
  · exact nofun
  · split
    · exact nofun
    · split
      · exact startOn _ _ _ _
      · dsimp only
        split
        · exact nofun
        · exact startOn _ _ _ _

theorem execJoin_ne_fault (hd : Nat) (s : State) (e : Fault) : execJoin hd s ≠ .fault e := by
  unfold execJoin
  split
  · exact nofun
  · dsimp only
    split_ifs <;> exact nofun

/-- Where the slots meet their invariant no instruction faults: a frame is accepted below MAX_FRAMES only (R53(b), R73). -/
theorem exec_ne_fault (h : s.slotsInv) (i : Instr) (e : Fault) : exec i s ≠ .fault e := by
  have accepts {k : Nat} {b : Byte} {fb : Vector Byte 6} (hf : (s.slot k).inFsm .readingFrames = true) :
      Slot.acceptFrame s.params b { s.slot k with fbuf := fb } ≠ .error e := by
    obtain ⟨hl, hfsm⟩ := of_decide_eq_true hf
    obtain ⟨-, hmax, hidx, -⟩ := Slot.inv_readingFrames (State.slotsInv_slot h k) hl hfsm
    obtain ⟨y, hy⟩ := Slot.acceptFrame_ok s.params b { s.slot k with fbuf := fb } (hidx.trans_le hmax)
    simp [hy]
  intro hfault
  cases i
  case frmLast k b =>
    simp only [exec, execFrmLast] at hfault
    obtain ⟨hsel, hact⟩ := (State.fireFrame_fault_iff ..).mp hfault
    rw [Bool.and_eq_true] at hsel
    exact accepts hsel.1 hact
  case acceptFrame k b =>
    simp only [exec, execAcceptFrame] at hfault
    obtain ⟨hsel, hact⟩ := (State.fireFrame_fault_iff ..).mp hfault
    rw [Bool.and_eq_true] at hsel
    exact accepts (fb := (s.slot k).fbuf) hsel.1 hact
  case start => exact execStart_ne_fault _ _ _ _ _ _ hfault
  case join => exact execJoin_ne_fault _ _ _ hfault
  case valid span =>
    change execValid span s = _ at hfault
    unfold execValid at hfault
    split at hfault <;> cases hfault
  case register | ck | headerDecode | frameDecode => cases hfault
  all_goals
    simp only [exec, execHuntMarker, execHuntSkip, execHdrByte, execHdrLast, execHdrAbort, execFrmByte, execFrmAbort, execRdEos,
      execRdErr, execDeliver, execDeliverRet, execTdRestore, execTdClose, execTdSentinel, execTdSentinelRet, execTdRelease,
      execAcceptHeader, execAbandon, execFatal] at hfault
    exact State.fire_ne_fault _ _ _ _ _ _ hfault

/-- The state an instruction runs in meets the invariant where the state before the fetch does. -/
theorem fetch_slotsInv {i : Instr} (h : s.slotsInv) (hf : fetch s = .run i t) : t.slotsInv := by
  unfold fetch at hf
  cases hin : s.inputs with
  | nil => simp [hin] at hf
  | cons turn rest =>
    simp only [hin] at hf
    cases turn with
    | op j a =>
      dsimp only at hf
      split at hf
      · cases hf
        exact h
      · cases hf
    | startReturns hd => cases hf
    | hardwareReset => cases hf
    | wake hd =>
      simp only [fetchWake] at hf
      split at hf
      · cases hf
      · split at hf
        · cases hf
          exact State.slotsInv_wake hd h
        · cases hf
    | handlerJoin k hd =>
      simp only [fetchHandlerJoin] at hf
      split at hf
      · next hc =>
        obtain ⟨hcall, -⟩ := hc
        cases hf
        split
        · exact State.slotsInv_holdCall hd h hcall
        · exact h
      · cases hf
    | inst k a =>
      obtain ⟨x, hx, rfl | ⟨rfl, -⟩⟩ := fetchInst_run hf
      · obtain ⟨str, rfl⟩ := hx.exists_stream
        exact State.slotsInv_setSlot h (State.slotsInv_slot h k)
      · exact h

theorem step_ne_fault (h : s.slotsInv) (e : Fault) : step s ≠ .fault e := by
  unfold step
  split
  · next hf => exact exec_ne_fault (fetch_slotsInv h hf) _ e
  · exact nofun

/-- An instance that a step takes out of RUNNING has read an end of stream or a read error (R200, R201), unless the hardware was
reset. -/
theorem step_leaves_running {k : Nat} (h : step s = .next t) (hl : (s.slot k).life = .running)
    (hl' : (t.slot k).life ≠ .running) :
    (∃ rest, s.inputs = .hardwareReset :: rest) ∨
      ∃ a rest rs, s.inputs = .inst k a :: rest ∧ ((s.slot k).stream = .eos :: rs ∨ ∃ e, (s.slot k).stream = .err e :: rs) := by
  rcases step_slot h k with ⟨rest, hin, -⟩ | ⟨hfree, -⟩ | ⟨hstop, -⟩ | ⟨a, rest, i, x, es, d, hin, hf, hm⟩ | hw
  · exact .inl ⟨rest, hin⟩
  · simp [hl] at hfree
  · simp [hl] at hstop
  · refine .inr ⟨a, rest, ?_⟩
    generalize hy : t.slot k = y at hm hl'
    cases hf
    case read r rs _ _ hs he =>
      refine ⟨rs, hin, ?_⟩
      cases r with
      | eos => exact .inl hs
      | err e => exact .inr ⟨e, hs⟩
      | byte b =>
        obtain ⟨hlife, -⟩ := hm.of_byte (encode_of_eventOf he)
        exact absurd (hlife.trans hl) hl'
    case deliver => cases hm; exact absurd hl hl'
    case deliverRet => cases hm; exact absurd hl hl'
    all_goals simp_all
  · exact absurd (by rw [hw]; exact hl) hl'

end

/-- Settles O54: the invariant makes room for the frame a byte completes, and only `RD_EOS` and `RD_ERR` end RUNNING. -/
theorem noByteStopsTheBlock : Obligations.NoByteStopsTheBlock := by
  refine ⟨fun s e h => step_ne_fault h e, fun s k a rest b bs h hin hl hf hs => ?_,
    fun s t k h hl hl' => step_leaves_running h hl hl'⟩
  obtain ⟨i, y, es, d, he, hm⟩ :=
    Slot.exists_move_of_byte (x := (s.slot k).afterRead bs) a s.draw b (State.slotsInv_slot h k) hl hf
  obtain ⟨hlife, hstream⟩ := hm.of_byte (encode_of_eventOf he)
  refine ⟨_, step_of_move hin (.read _ bs i hl hf hs he) hm, ?_⟩
  rw [State.moved_slot, if_pos rfl]
  exact ⟨hlife.trans hl, hstream, rfl⟩

/-! ### Handles -/

/-- Every move keeps the handle of its instance (R305). -/
theorem SlotMove.handle_eq {p : Params} {a : Answers} {n k d : Nat} {x y : Slot} {i : Instr} {es : List Effect}
    (hm : SlotMove p a n k x i y es d) : y.handle = x.handle := by
  rcases hm.life_cases with ⟨-, ⟨-, -, hh⟩, -⟩ | ⟨-, -, ⟨-, -, hh⟩, -⟩ | ⟨hl, hstop, -⟩
  · exact hh
  · exact hh
  · cases hm
    case tdRelease => rfl
    all_goals simp_all

section
variable {s t u : State}

/-- The handles, slot by slot, listed or not. -/
theorem State.handlesInv_iff : s.handlesInv ↔ ∀ k, (s.slot k).live →
    (s.slot k).handle < s.nextHandle ∧ (∀ j, (s.slot j).live → (s.slot k).handle = (s.slot j).handle → k = j) ∧
      ∀ n ∈ s.params.maxInstances, k < n := by
  constructor
  · rintro ⟨hused, hdist, hmax⟩ k hl
    have hk := s.slot_listed k hl
    exact ⟨hused k hk hl, fun j hj => hdist k hk j (s.slot_listed j hj) hl hj, hmax k hk hl⟩
  · intro h
    refine ⟨fun k _ hl => ?_, fun k _ j _ hl hj => ?_, fun k _ hl => ?_⟩ <;> obtain ⟨hused, hdist, hmax⟩ := h k hl
    · exact hused
    · exact hdist j hj
    · exact hmax

/-- Every instance of `t` is one of `s` with its handle. -/
def State.NoNewInstance (s t : State) : Prop :=
  t.params = s.params ∧ t.nextHandle = s.nextHandle ∧
    ∀ k, (t.slot k).live → (s.slot k).live ∧ (t.slot k).handle = (s.slot k).handle

theorem State.NoNewInstance.refl (s : State) : s.NoNewInstance s := ⟨rfl, rfl, fun _ hl => ⟨hl, rfl⟩⟩

theorem State.NoNewInstance.handlesInv (h : s.NoNewInstance t) (hs : s.handlesInv) : t.handlesInv := by
  obtain ⟨hparams, hnext, hslot⟩ := h
  refine State.handlesInv_iff.mpr fun k hl => ?_
  obtain ⟨hlk, hhk⟩ := hslot k hl
  obtain ⟨hused, hdist, hmax⟩ := State.handlesInv_iff.mp hs k hlk
  rw [hparams, hnext, hhk]
  refine ⟨hused, fun j hj he => ?_, hmax⟩
  obtain ⟨hlj, hhj⟩ := hslot j hj
  exact hdist j hlj (he.trans hhj)

/-- What waits on a slot is neither its lifecycle state nor its handle. -/
theorem State.noNewInstance_of_waitsOnly (hp : t.params = s.params) (hn : t.nextHandle = s.nextHandle)
    (hw : ∀ k, (s.slot k).waitsOnly (t.slot k)) : s.NoNewInstance t :=
  ⟨hp, hn, fun k hl => by rw [hw k] at hl ⊢; exact ⟨hl, rfl⟩⟩

/-- A write of one slot that keeps its instance, or leaves none. -/
theorem State.noNewInstance_of_slot {k : Nat} {y : Slot} (hp : t.params = s.params) (hn : t.nextHandle = s.nextHandle)
    (ht : t.slots = setSlotAt s.slots k y) (hy : y.live → (s.slot k).live ∧ y.handle = (s.slot k).handle) :
    s.NoNewInstance t := by
  refine ⟨hp, hn, fun j hl => ?_⟩
  have hj : t.slot j = if j = k then y else s.slot j := (congrArg (slotAt · j) ht).trans (slotAt_setSlotAt ..)
  rw [hj] at hl ⊢
  split_ifs at hl ⊢ with e
  · exact e ▸ hy hl
  · exact ⟨hl, rfl⟩

theorem State.noNewInstance_startReturns (s : State) (hd : Nat) : s.NoNewInstance (s.startReturns hd) := by
  rcases s.startReturns_cases hd with e | ⟨k, -, -, e⟩ <;> rw [e]
  · exact .refl s
  · exact State.noNewInstance_of_waitsOnly rfl rfl (s.setSlot_waitsOnly k _ rfl)

theorem State.noNewInstance_join {hd : Nat} (he : exec (.join hd) s = .next t) : s.NoNewInstance t := by
  obtain ⟨k, hfound, -, -, ⟨-, rfl⟩ | ⟨-, rfl⟩⟩ := execJoin_next he
  · exact State.noNewInstance_of_slot rfl rfl rfl fun hl => absurd rfl hl
  · exact State.noNewInstance_of_waitsOnly rfl rfl (s.setSlot_waitsOnly k _ rfl)

/-- A START gives the instance it launches a handle nobody had, in a slot MAX_INSTANCES allows (R242, R244). -/
theorem State.handlesInv_start {path : DevPath} {raw : Bool} {hr : Option HandlerRef} {arg : HandlerArg}
    (he : exec (.start path raw hr arg) s = .next t) (hs : s.handlesInv) : t.handlesInv := by
  obtain ⟨es, -, rfl | ⟨k, c, dev, q, r, hk, -, rfl | rfl⟩⟩ := execStart_next he
  · exact hs
  · refine State.NoNewInstance.handlesInv (s := s) (State.noNewInstance_of_slot (k := k) rfl rfl rfl ?_) hs
    exact fun hl => absurd rfl hl
  · obtain ⟨-, -, -, hroom⟩ := s.allocSlot_some k hk
    have hold := State.handlesInv_iff.mp hs
    generalize hy : ((s.slot k).prepared c dev q r).launch s.nextHandle s.ans.stream = y
    have hh : y.handle = s.nextHandle := hy ▸ rfl
    have hslot (j : Nat) : slotAt (setSlotAt s.slots k y) j = if j = k then y else s.slot j := slotAt_setSlotAt ..
    refine State.handlesInv_iff.mpr fun i hi => ?_
    simp only [State.slot, hslot] at hi ⊢
    by_cases hik : i = k
    · subst hik
      rw [if_pos rfl, hh]
      refine ⟨Nat.lt_succ_self _, fun j hj he => ?_, hroom⟩
      by_contra hji
      rw [if_neg (Ne.symm hji)] at hj he
      obtain ⟨hused, -⟩ := hold j hj
      exact hused.ne' he
    · rw [if_neg hik] at hi ⊢
      obtain ⟨hused, hdist, hmax⟩ := hold i hi
      refine ⟨Nat.lt_succ_of_lt hused, fun j hj he => ?_, hmax⟩
      by_cases hjk : j = k
      · rw [if_pos hjk, hh] at he
        exact absurd he hused.ne
      · rw [if_neg hjk] at hj he
        exact hdist j hj he

theorem State.handlesInv_fromOutside {i : Instr} (ho : fromOutside i = true) (he : exec i s = .next t) (hs : s.handlesInv) :
    t.handlesInv := by
  cases i <;> simp only [fromOutside, reduceCtorEq] at ho
  case start => exact State.handlesInv_start he hs
  case join => exact (State.noNewInstance_join he).handlesInv hs
  case valid span =>
    rcases eq_or_ne span [] with rfl | hne
    · cases (exec_valid_nil s).symm.trans he
      exact hs
    · cases (exec_valid_of_ne_nil s hne).symm.trans he
      exact hs
  all_goals
    cases he
    exact hs

/-- Settles O52: only a START makes a new instance, and every other step keeps those there are with their handles or ends them. -/
theorem stepKeepsHandlesDistinct : Obligations.StepKeepsHandlesDistinct := by
  intro s t h hs
  rcases step_cases hs with ⟨-, rfl⟩ | ⟨rest, -, rfl⟩ | ⟨i, a, rest, -, rfl | ⟨ho, he⟩⟩ | ⟨hd, rest, -, rfl⟩ |
    ⟨hd, rest, -, rfl | ⟨k, -, -, -, he⟩⟩ | ⟨k, hd, rest, -, rfl | ⟨-, -, ⟨-, he⟩ | ⟨-, he⟩⟩⟩ | ⟨k, a, rest, hin⟩
  · exact h
  · exact State.handlesInv_iff.mpr fun k hl => absurd rfl hl
  · exact h
  · exact State.handlesInv_fromOutside ho he h
  · exact (State.noNewInstance_startReturns { s with inputs := rest } hd).handlesInv h
  · exact h
  · refine (State.noNewInstance_join he).handlesInv (State.NoNewInstance.handlesInv (s := s) ?_ h)
    refine State.noNewInstance_of_waitsOnly rfl rfl fun j => ?_
    rw [State.resumeCalls_slot]
    exact Slot.waitsOnly_trans (({ s with inputs := rest } : State).setSlot_waitsOnly k _ rfl j) (Slot.resumeCall_waitsOnly hd _)
  · exact h
  · refine (State.noNewInstance_join he).handlesInv (State.NoNewInstance.handlesInv (s := s) ?_ h)
    exact State.noNewInstance_of_waitsOnly rfl rfl (({ s with inputs := rest } : State).setSlot_waitsOnly k _ rfl)
  · exact (State.noNewInstance_join he).handlesInv h
  · rcases step_inst hin hs with rfl | ⟨i, x, y, es, d, hf, hm, rfl⟩
    · exact h
    · obtain ⟨str, rfl⟩ := hf.exists_stream
      refine State.NoNewInstance.handlesInv (s := s) (State.noNewInstance_of_slot (k := k) rfl rfl rfl ?_) h
      exact fun _ => ⟨hm.live, hm.handle_eq⟩

end

/-- Settles O23. -/
theorem abandonDiscardsAndHunts : Obligations.AbandonDiscardsAndHunts := by
  intro s k c hl hc
  have hf : (s.slot k).fsm = raisedIn c := by
    rcases hc with ⟨hf, rfl | rfl | rfl⟩ | ⟨hf, rfl | rfl⟩ <;> exact hf
  exact (SlotMove.abandon c hl hf).exec_quiet

/-! ### START that is refused -/

section
variable {s : State} {path : DevPath} {dev : DevHandle}

/-- A device that a live instance holds is shared (R306). -/
theorem State.sharesDevice_of_not_unused (h : ¬ s.deviceUnused path dev) : s.sharesDevice path dev = true := by
  simp only [State.deviceUnused, not_forall] at h
  obtain ⟨y, hy, hl, ho, hsame⟩ := h
  refine List.any_eq_true.mpr ⟨y, hy, ?_⟩
  have : y.dev = dev ∨ y.cfg.path = path := by tauto
  simpa [hl, ho] using this

/-- A launch onto a device in use is refused (R306, U11; log 19). -/
theorem State.launch_of_shared {k : Nat} {y : Slot} {opened : Bool} (hl : s.ans.launchOk = true)
    (hd : s.sharesDevice y.cfg.path y.dev = true) : s.launch k y opened = .refused .deviceShared := by
  rw [State.launch, if_neg (by simp [hl]), if_pos hd]

/-- With its device open, a START with a null handler is refused (U17, log 18). -/
theorem exec_start_null_handler {k : Nat} {raw : Bool} {arg : HandlerArg} (hr : s.registered = true) (hk : s.takesSlot k)
    (hd : s.opensAs path dev) : exec (.start path raw none arg) s = .refused .nullHandler := by
  change execStart path raw none arg s = _
  rw [execStart, if_neg (by simp [hr])]
  rcases hd with ⟨hp, -⟩ | ⟨hp, ho⟩
  · simp only [State.allocSlot_of_takesSlot hk, if_pos hp, State.startOn]
  · simp only [State.allocSlot_of_takesSlot hk, if_neg hp, ho, State.startOn]

end

/-- Settles O39: the null handler is found where the parameters are latched, the shared device where the reader is launched. -/
theorem startRefusesNullHandlerAndSharedDevice : Obligations.StartRefusesNullHandlerAndSharedDevice := by
  refine fun s k path arg dev hr hk hd => ⟨fun raw => exec_start_null_handler hr hk hd, fun h hl hu => ?_,
    fun h q hq hs hl hu => ?_⟩ <;> have hshared := State.sharesDevice_of_not_unused hu <;> rw [exec_start_of_opensAs hr hk hd]
  · rw [State.configure_of_not_raw rfl]
    exact State.launch_of_shared (s := s.withDevice path dev) hl hshared
  · rw [State.configure_of_set rfl hq hs]
    exact State.launch_of_shared (s := s.rawTried path dev q true) hl hshared

/-! ### What an abandoned attempt leaves in a slot -/

/-- The values of a slot that a rule may find stale: capture buffers, counters, the packet record, the exit value before `Fatal`
writes it, and the test trace (R286, R40, R309). -/
structure Stale where
  hcnt : Fin 9
  hbuf : Vector Byte 9
  fpos : Fin 6
  fbuf : Vector Byte 6
  fidx : Fin 128
  pkt : PktFields
  pay : PayBuf
  exit : ExitValue
  causes : List AbandonCause

/-- These values of a slot. -/
def Slot.stale (x : Slot) : Stale where
  hcnt := x.hcnt
  hbuf := x.hbuf
  fpos := x.fpos
  fbuf := x.fbuf
  fidx := x.fidx
  pkt := x.pkt
  pay := x.pay
  exit := x.exit
  causes := x.causes

/-- The slot with other values in their place. -/
def Slot.withStale (x : Slot) (d : Stale) : Slot :=
  { x with hcnt := d.hcnt, hbuf := d.hbuf, fpos := d.fpos, fbuf := d.fbuf, fidx := d.fidx, pkt := d.pkt, pay := d.pay,
           exit := d.exit, causes := d.causes }

/-- The first `n` bytes of two capture buffers are the same. -/
abbrev AgreeBelow {m : Nat} (v w : Vector Byte m) (n : Nat) : Prop := ∀ i < n, v.toList.getD i 0 = w.toList.getD i 0

/-- The first `n` payload bytes of two packet records are the same. -/
abbrev PayBuf.agreeBelow (m m' : PayBuf) (n : Nat) : Prop := ∀ i < n, PayBuf.read m i = PayBuf.read m' i

/-- The stale values `c` and `d` agree wherever a rule may read them before it writes them, in a slot in these states (R286). -/
structure Stale.Agree (life : Life) (fsm : Fsm) (c d : Stale) : Prop where
  exit : life ≠ .running → c.exit = d.exit
  header : life = .running → fsm = .readingHeader → c.hcnt = d.hcnt ∧ AgreeBelow c.hbuf d.hbuf c.hcnt.val
  frames : life = .running → fsm = .readingFrames →
    c.pkt = d.pkt ∧ c.fidx = d.fidx ∧ c.fpos = d.fpos ∧ AgreeBelow c.fbuf d.fbuf c.fpos.val ∧
      PayBuf.agreeBelow c.pay d.pay (4 * c.fidx.val)
  packet : life = .running → fsm = .delivering →
    c.pkt = d.pkt ∧ PayBuf.agreeBelow c.pay d.pay (4 * c.pkt.nfr.toNat)

/-- A slot with the same future is the slot with other stale values that agree with its own. -/
theorem Slot.sameFuture_iff {x y : Slot} : x.sameFuture y ↔ ∃ d, Stale.Agree x.life x.fsm x.stale d ∧ y = x.withStale d := by
  constructor
  · rintro ⟨hlife, hfsm, htd, hlive, hcfg, hdev, hopen, hsaved, hchanged, hdone, hcall, hhandle, hok, hjoin, hcj, hstream,
      hexit, hheader, hframes, hpacket⟩
    refine ⟨y.stale, ⟨hexit, hheader, hframes, hpacket⟩, ?_⟩
    cases x
    cases y
    simp_all [Slot.withStale, Slot.stale]
  · rintro ⟨d, ⟨hexit, hheader, hframes, hpacket⟩, rfl⟩
    exact ⟨rfl, rfl, rfl, rfl, rfl, rfl, rfl, rfl, rfl, rfl, rfl, rfl, rfl, rfl, rfl, rfl, hexit, hheader, hframes, hpacket⟩

section
variable {p : Params} {a : Answers} {n k n' : Nat} {x y : Slot} {d : Stale} {i : Instr} {es : List Effect}

theorem Slot.withStale_cfg : (x.withStale d).cfg = x.cfg := rfl
theorem Slot.withStale_dev : (x.withStale d).dev = x.dev := rfl
theorem Slot.withStale_savedCfg : (x.withStale d).savedCfg = x.savedCfg := rfl
theorem Slot.withStale_cfgChanged : (x.withStale d).cfgChanged = x.cfgChanged := rfl

/-! ### The same future, by the state a slot is in -/

/-- A slot that differs in stale values only, which agree where they may be read. -/
theorem Slot.sameFuture_of_agree (hy : y = x.withStale y.stale) (h : Stale.Agree x.life x.fsm x.stale y.stale) : x.sameFuture y :=
  Slot.sameFuture_iff.mpr ⟨y.stale, h, hy⟩

theorem Slot.sameFuture_of_not_running (hy : y = x.withStale y.stale) (hl : x.life ≠ .running) (he : x.exit = y.exit) :
    x.sameFuture y :=
  Slot.sameFuture_of_agree hy ⟨fun _ => he, fun h => absurd h hl, fun h => absurd h hl, fun h => absurd h hl⟩

theorem Slot.sameFuture_of_hunting (hy : y = x.withStale y.stale) (hl : x.life = .running) (hf : x.fsm = .hunting) :
    x.sameFuture y :=
  Slot.sameFuture_of_agree hy ⟨fun h => absurd hl h, by simp [hf], by simp [hf], by simp [hf]⟩

theorem Slot.sameFuture_of_readingHeader (hy : y = x.withStale y.stale) (hl : x.life = .running) (hf : x.fsm = .readingHeader)
    (hc : x.hcnt = y.hcnt) (hb : AgreeBelow x.hbuf y.hbuf x.hcnt.val) : x.sameFuture y :=
  Slot.sameFuture_of_agree hy ⟨fun h => absurd hl h, fun _ _ => ⟨hc, hb⟩, by simp [hf], by simp [hf]⟩

theorem Slot.sameFuture_of_readingFrames (hy : y = x.withStale y.stale) (hl : x.life = .running) (hf : x.fsm = .readingFrames)
    (hp : x.pkt = y.pkt) (hi : x.fidx = y.fidx) (hc : x.fpos = y.fpos) (hb : AgreeBelow x.fbuf y.fbuf x.fpos.val)
    (hm : PayBuf.agreeBelow x.pay y.pay (4 * x.fidx.val)) : x.sameFuture y :=
  Slot.sameFuture_of_agree hy ⟨fun h => absurd hl h, by simp [hf], fun _ _ => ⟨hp, hi, hc, hb, hm⟩, by simp [hf]⟩

theorem Slot.sameFuture_of_delivering (hy : y = x.withStale y.stale) (hl : x.life = .running) (hf : x.fsm = .delivering)
    (hp : x.pkt = y.pkt) (hm : PayBuf.agreeBelow x.pay y.pay (4 * x.pkt.nfr.toNat)) : x.sameFuture y :=
  Slot.sameFuture_of_agree hy ⟨fun h => absurd hl h, by simp [hf], by simp [hf], fun _ _ => ⟨hp, hm⟩⟩

theorem Slot.sameFuture_refl (x : Slot) : x.sameFuture x :=
  Slot.sameFuture_of_agree rfl ⟨fun _ => rfl, fun _ _ => ⟨rfl, fun _ _ => rfl⟩,
    fun _ _ => ⟨rfl, rfl, rfl, fun _ _ => rfl, fun _ _ => rfl⟩, fun _ _ => ⟨rfl, fun _ _ => rfl⟩⟩

/-! ### What two slots with the same future share -/

/-- What no stale value is part of is the same in both. -/
theorem Slot.sameFuture_field {α : Type} (h : x.sameFuture y) (F : Slot → α) (hF : ∀ x d, F (x.withStale d) = F x) :
    F y = F x := by
  obtain ⟨d, -, rfl⟩ := Slot.sameFuture_iff.mp h
  exact hF x d

section
variable (h : x.sameFuture y) (hl : x.life = .running)
include h hl

/-- While a header is read: its bytes so far (R192). -/
theorem Slot.sameFuture_header (hf : x.fsm = .readingHeader) : y.hcnt = x.hcnt ∧ AgreeBelow x.hbuf y.hbuf x.hcnt.val := by
  obtain ⟨d, ht, rfl⟩ := Slot.sameFuture_iff.mp h
  exact (ht.header hl hf).imp_left Eq.symm

/-- While frames are read: the header accepted, the bytes of the frame so far, and the payload bytes accepted (R196). -/
theorem Slot.sameFuture_frames (hf : x.fsm = .readingFrames) :
    y.pkt = x.pkt ∧ y.fidx = x.fidx ∧ y.fpos = x.fpos ∧ AgreeBelow x.fbuf y.fbuf x.fpos.val ∧
      PayBuf.agreeBelow x.pay y.pay (4 * x.fidx.val) := by
  obtain ⟨d, ht, rfl⟩ := Slot.sameFuture_iff.mp h
  obtain ⟨hpkt, hidx, hpos, hbytes⟩ := ht.frames hl hf
  exact ⟨hpkt.symm, hidx.symm, hpos.symm, hbytes⟩

/-- While a packet is delivered: the packet (R202). -/
theorem Slot.sameFuture_packet (hf : x.fsm = .delivering) :
    y.pkt = x.pkt ∧ PayBuf.agreeBelow x.pay y.pay (4 * x.pkt.nfr.toNat) := by
  obtain ⟨d, ht, rfl⟩ := Slot.sameFuture_iff.mp h
  exact (ht.packet hl hf).imp_left Eq.symm

/-- The handler is called with the same packet. -/
theorem Slot.packet_eq_of_sameFuture (hf : x.fsm = .delivering) : y.packet n = x.packet n := by
  obtain ⟨hpkt, hpay⟩ := Slot.sameFuture_packet h hl hf
  simp only [Slot.packet, hpkt, Packet.mk.injEq, true_and]
  refine List.map_congr_left fun j hj => ?_
  rw [memRead, memRead, hpay j (List.mem_range.mp hj)]

end

/-- The same bytes in both header buffers, or in both frame buffers. -/
theorem Slot.sameFuture_buffers (h : x.sameFuture y) :
    (∀ v, ({ x with hbuf := v } : Slot).sameFuture { y with hbuf := v }) ∧
    ∀ v, ({ x with fbuf := v } : Slot).sameFuture { y with fbuf := v } := by
  obtain ⟨d, ⟨hexit, hheader, hframes, hpacket⟩, rfl⟩ := Slot.sameFuture_iff.mp h
  refine ⟨fun v => Slot.sameFuture_of_agree rfl ⟨hexit, fun hl hf => ?_, hframes, hpacket⟩,
    fun v => Slot.sameFuture_of_agree rfl ⟨hexit, hheader, fun hl hf => ?_, hpacket⟩⟩
  · obtain ⟨hcnt, -⟩ := hheader hl hf
    exact ⟨hcnt, fun _ _ => rfl⟩
  · obtain ⟨hpkt, hidx, hpos, -, hpay⟩ := hframes hl hf
    exact ⟨hpkt, hidx, hpos, fun _ _ => rfl, hpay⟩

/-! ### Captured bytes -/

/-- The same byte stored next in both buffers. -/
theorem AgreeBelow.set_next {m i : Nat} {v w : Vector Byte m} (h : AgreeBelow v w i) (hi : i < m) (b : Byte) :
    AgreeBelow (v.set i b) (w.set i b) (i + 1) := by
  intro j hj
  rcases Nat.lt_succ_iff_lt_or_eq.mp hj with hlt | rfl
  · simpa [List.getD, List.getElem?_set, hlt.ne'] using h j hlt
  · simp [List.getD, hi]

/-- The same last byte stored makes two buffers equal that agree before it. -/
theorem AgreeBelow.set_last {m : Nat} {v w : Vector Byte (m + 1)} (h : AgreeBelow v w m) (b : Byte) :
    v.set m b = w.set m b := by
  have hall := h.set_next m.lt_succ_self b
  ext i hi
  have hbyte : (v.set m b)[i] = (w.set m b)[i] := by simpa [List.getD, hi] using hall i hi
  rw [hbyte]

/-! ### Payload bytes -/

/-- Consecutive writes that succeed lie inside the buffer. -/
theorem memWriteAll_bound {m m' : PayBuf} {j : Nat} {vs : List Byte} (h : memWriteAll p m j vs = .ok m') :
    vs = [] ∨ j + vs.length ≤ 4 * p.maxFrames.val := by
  induction vs generalizing m j with
  | nil => exact .inl rfl
  | cons v vs ih =>
    unfold memWriteAll at h
    split at h
    · next m1 h1 =>
      obtain ⟨hj, -⟩ := (memWrite_ok_iff ..).mp h1
      right
      rcases ih h with rfl | hle
      · exact hj
      · rw [List.length_cons]
        omega
    · cases h

/-- Four bytes written in both records, after `4 * c` bytes that agree. -/
theorem PayBuf.agreeBelow_memWriteAll {m m' u u' : PayBuf} {c : Nat} {l : Vector Byte 4} (h : PayBuf.agreeBelow m m' (4 * c))
    (hu : memWriteAll p m (4 * c) l.toList = .ok u) (hu' : memWriteAll p m' (4 * c) l.toList = .ok u') :
    PayBuf.agreeBelow u u' (4 * (c + 1)) := by
  intro j hj
  rw [memWriteAll_read _ _ _ _ _ hu, memWriteAll_read _ _ _ _ _ hu']
  split
  · rfl
  · next hout => exact h j (by rw [Vector.length_toList] at hout; omega)

/-! ### The error actions and acceptance -/

/-- Abandon leaves one future, whatever it finds (R286). -/
theorem Slot.abandon_sameFuture (c : AbandonCause) (h : x.sameFuture y) (hl : x.life = .running) :
    (x.abandon c).sameFuture (y.abandon c) := by
  obtain ⟨d, -, rfl⟩ := Slot.sameFuture_iff.mp h
  exact Slot.sameFuture_of_hunting rfl hl rfl

theorem Slot.fatal_sameFuture (v : ExitValue) (h : x.sameFuture y) : (x.fatal v).sameFuture (y.fatal v) := by
  obtain ⟨d, -, rfl⟩ := Slot.sameFuture_iff.mp h
  exact Slot.sameFuture_of_not_running rfl nofun rfl

/-- AcceptHeader does the same to both slots, whose header bytes are the same. -/
theorem Slot.acceptHeader_sameFuture (alloc : Bool) (b : Byte) (h : x.sameFuture y) (hl : x.life = .running)
    (hb : AgreeBelow x.hbuf y.hbuf 8) : (x.acceptHeader p alloc b).sameFuture (y.acceptHeader p alloc b) := by
  obtain ⟨d, -, rfl⟩ := Slot.sameFuture_iff.mp h
  have hset : x.hbuf.set 8 b = (x.withStale d).hbuf.set 8 b := hb.set_last b
  simp only [Slot.acceptHeader, ← hset]
  cases headerDecode (x.hbuf.set 8 b) with
  | none => exact Slot.sameFuture_of_hunting rfl hl rfl
  | some f =>
    dsimp only
    split_ifs with hmax halloc h0
    · exact Slot.sameFuture_of_hunting rfl hl rfl
    · exact Slot.sameFuture_of_hunting rfl hl rfl
    · exact Slot.sameFuture_of_delivering rfl hl rfl rfl (by simp [h0, PayBuf.agreeBelow])
    · exact Slot.sameFuture_of_readingFrames rfl hl rfl rfl rfl rfl nofun nofun

/-- AcceptFrame does the same to both slots, whose frame bytes are the same. -/
theorem Slot.acceptFrame_sameFuture {b : Byte} {x' : Slot} (h : x.sameFuture x') (hl : x.life = .running)
    (hf : x.fsm = .readingFrames) (hb : AgreeBelow x.fbuf x'.fbuf 5) (hy : x.acceptFrame p b = .ok y) :
    ∃ y', x'.acceptFrame p b = .ok y' ∧ y.sameFuture y' := by
  obtain ⟨hpkt, hidx, -, -, hpay⟩ := Slot.sameFuture_frames h hl hf
  have hset : x.fbuf.set 5 b = x'.fbuf.set 5 b := hb.set_last b
  rcases x.acceptFrame_cases p b y hy with ⟨rfl, hd⟩ | ⟨l, m, hd, hm, hacc⟩
  · refine ⟨x'.abandon .frmChecksum, ?_, Slot.abandon_sameFuture _ h hl⟩
    rw [Slot.acceptFrame, ← hset, hd]
  · have hroom : 4 * x.fidx.val + l.toList.length ≤ 4 * p.maxFrames.val :=
      (memWriteAll_bound hm).resolve_left (List.ne_nil_of_length_pos (by simp))
    rw [Vector.length_toList] at hroom
    obtain ⟨m', hm', hnext, hacc'⟩ := Slot.acceptFrame_of_decode (x := x') (hset ▸ hd)
      (hidx.symm ▸ (by omega : x.fidx.val < p.maxFrames.val))
    rw [hidx] at hm' hnext
    have hagree := PayBuf.agreeBelow_memWriteAll hpay hm hm'
    refine ⟨_, hacc', ?_⟩
    obtain ⟨d, -, rfl⟩ := Slot.sameFuture_iff.mp h
    rw [hidx, hpkt]
    rcases hacc with ⟨hn, rfl⟩ | ⟨hn, rfl⟩
    · rw [if_pos hn]
      exact Slot.sameFuture_of_delivering rfl hl rfl rfl (hn ▸ hagree)
    · rw [if_neg hn]
      exact Slot.sameFuture_of_readingFrames rfl hl hf rfl rfl rfl nofun (hnext.symm ▸ hagree)

/-! ### The moves of an instance -/

/-- A slot with the same future makes the same move, with the same effects and draws, and has the same future after it. -/
theorem SlotMove.sameFuture {x' : Slot} (hm : SlotMove p a n k x i y es n') (h : x.sameFuture x') :
    ∃ y', SlotMove p a n k x' i y' es n' ∧ y.sameFuture y' := by
  have header := Slot.sameFuture_header h
  have frames := Slot.sameFuture_frames h
  have packet := Slot.sameFuture_packet h
  have called := Slot.packet_eq_of_sameFuture (n := n) h
  obtain ⟨hbufs, fbufs⟩ := Slot.sameFuture_buffers h
  obtain ⟨d, ⟨hexit, -, -, -⟩, rfl⟩ := Slot.sameFuture_iff.mp h
  have exited (hl : x.life = .teardown) : x.exit = d.exit := hexit (by simp [hl])
  cases hm
  case huntMarker hl hf => exact ⟨_, .huntMarker hl hf, Slot.sameFuture_of_readingHeader rfl hl rfl rfl nofun⟩
  case huntSkip b hl hf hb => exact ⟨_, .huntSkip b hl hf hb, h⟩
  case hdrByte b hl hf hb hn =>
    obtain ⟨hcnt, hagree⟩ := header hl hf
    have hnext : (x.hcnt + 1).val = x.hcnt.val + 1 := Fin.val_add_one_of_lt (Fin.lt_def.mpr hn)
    refine ⟨_, .hdrByte b hl hf hb (hcnt ▸ hn), Slot.sameFuture_of_readingHeader rfl hl hf (congrArg (· + 1) hcnt.symm) ?_⟩
    simpa only [hnext, Slot.stale, hcnt] using hagree.set_next x.hcnt.isLt b
  case hdrLast b hl hf hb hn =>
    obtain ⟨hcnt, hagree⟩ := header hl hf
    have hset := (hn ▸ hagree).set_last b
    refine ⟨_, .hdrLast b hl hf hb (hcnt ▸ hn), ?_⟩
    rw [← hset]
    exact Slot.acceptHeader_sameFuture _ b (hbufs _) hl fun _ _ => rfl
  case hdrAbort b hl hf hb => exact ⟨_, .hdrAbort b hl hf hb, Slot.abandon_sameFuture _ h hl⟩
  case frmByte b hl hf hb hn =>
    obtain ⟨hpkt, hidx, hpos, hagree, hpay⟩ := frames hl hf
    have hnext : (x.fpos + 1).val = x.fpos.val + 1 := Fin.val_add_one_of_lt (Fin.lt_def.mpr hn)
    refine ⟨_, .frmByte b hl hf hb (hpos ▸ hn), Slot.sameFuture_of_readingFrames rfl hl hf hpkt.symm
      hidx.symm (congrArg (· + 1) hpos.symm) ?_ hpay⟩
    simpa only [hnext, Slot.stale, hpos] using hagree.set_next x.fpos.isLt b
  case frmAbort b hl hf hb hn =>
    obtain ⟨-, -, hpos, -, -⟩ := frames hl hf
    exact ⟨_, .frmAbort b hl hf hb (hpos ▸ hn), Slot.abandon_sameFuture _ h hl⟩
  case frmLast b hl hf hn hy =>
    obtain ⟨-, -, hpos, hagree, -⟩ := frames hl hf
    have hset := (hn ▸ hagree).set_last b
    obtain ⟨y', hy', hfut⟩ := Slot.acceptFrame_sameFuture (fbufs (x.fbuf.set 5 b)) hl hf (fun _ _ => rfl) hy
    rw [hset] at hy'
    exact ⟨y', .frmLast b y' hl hf (hpos ▸ hn) hy', hfut⟩
  case deliver hl hf hc =>
    obtain ⟨hpkt, hpay⟩ := packet hl hf
    rw [← called hl hf]
    exact ⟨_, .deliver hl hf hc, Slot.sameFuture_of_delivering rfl hl hf hpkt.symm hpay⟩
  case acceptHeader b hl hf hb hn =>
    obtain ⟨hcnt, hagree⟩ := header hl hf
    exact ⟨_, .acceptHeader b hl hf hb (hcnt ▸ hn), Slot.acceptHeader_sameFuture _ b h hl (hn ▸ hagree)⟩
  case acceptFrame b hl hf hn hy =>
    obtain ⟨-, -, hpos, hagree, -⟩ := frames hl hf
    obtain ⟨y', hy', hfut⟩ := Slot.acceptFrame_sameFuture h hl hf (hn ▸ hagree) hy
    exact ⟨y', .acceptFrame b y' hl hf (hpos ▸ hn) hy', hfut⟩
  case rdEos hl hf => exact ⟨_, .rdEos hl hf, Slot.fatal_sameFuture _ h⟩
  case rdErr e hl hf => exact ⟨_, .rdErr e hl hf, Slot.fatal_sameFuture _ h⟩
  case deliverRet hl hf hc hj => exact ⟨_, .deliverRet hl hf hc hj, Slot.sameFuture_of_hunting rfl hl rfl⟩
  case tdRestore hl ht => exact ⟨_, .tdRestore hl ht, Slot.sameFuture_of_not_running rfl (by simp [hl]) (exited hl)⟩
  case tdClose hl ht => exact ⟨_, .tdClose hl ht, Slot.sameFuture_of_not_running rfl (by simp [hl]) (exited hl)⟩
  case tdSentinel hl ht hd hc => exact ⟨_, .tdSentinel hl ht hd hc, Slot.sameFuture_of_not_running rfl (by simp [hl]) (exited hl)⟩
  case tdSentinelRet hl ht hc hj =>
    exact ⟨_, .tdSentinelRet hl ht hc hj, Slot.sameFuture_of_not_running rfl (by simp [hl]) (exited hl)⟩
  case tdRelease hl ht => exact ⟨_, .tdRelease hl ht, Slot.sameFuture_of_not_running rfl nofun (exited hl)⟩
  case abandon c hl hf => exact ⟨_, .abandon c hl hf, Slot.abandon_sameFuture _ h hl⟩
  case fatal v hl hf => exact ⟨_, .fatal v hl hf, Slot.fatal_sameFuture _ h⟩
end

/-! ### Updates of a slot -/

/-- An update that neither reads nor writes a stale value, and keeps the states that say which values are stale. -/
abbrev Slot.Neutral (f : Slot → Slot) : Prop :=
  ∀ x d, f (x.withStale d) = (f x).withStale d ∧ (f x).life = x.life ∧ (f x).fsm = x.fsm ∧ (f x).stale = x.stale

theorem Slot.neutral_latch (c : InstCfg) (dev : DevHandle) : Slot.Neutral (Slot.latch c dev) := fun _ _ => ⟨rfl, rfl, rfl, rfl⟩

theorem Slot.neutral_resumeCall (hd : Nat) : Slot.Neutral (Slot.resumeCall hd) := by
  intro x d
  by_cases hc : x.callJoin = some hd
  · have hx : x.resumeCall hd = { x with callJoin := none } := if_pos hc
    exact hx ▸ ⟨if_pos hc, rfl, rfl, rfl⟩
  · have hx : x.resumeCall hd = x := if_neg hc
    exact hx.symm ▸ ⟨if_neg hc, rfl, rfl, rfl⟩

section
variable {k j : Nat} {x y : Slot} {f : Slot → Slot}

theorem Slot.Neutral.sameFuture (hf : Slot.Neutral f) (h : x.sameFuture y) : (f x).sameFuture (f y) := by
  obtain ⟨d, hd, rfl⟩ := Slot.sameFuture_iff.mp h
  obtain ⟨hcomm, hlife, hfsm, hstale⟩ := hf x d
  exact Slot.sameFuture_iff.mpr ⟨d, by rwa [hlife, hfsm, hstale], hcomm⟩

/-- A failed START leaves one future in the slot it frees. -/
theorem Slot.freed_sameFuture (h : x.sameFuture y) (hl : x.life ≠ .running) :
    ({ x with cfgChanged := false, devOpen := false, life := .free } : Slot).sameFuture
      { y with cfgChanged := false, devOpen := false, life := .free } := by
  obtain ⟨d, hd, rfl⟩ := Slot.sameFuture_iff.mp h
  exact Slot.sameFuture_of_not_running rfl nofun (hd.exit hl)

/-- A JOIN that answers leaves one future in the slot it frees, and answers the same exit value. -/
theorem Slot.joined_sameFuture (h : x.sameFuture y) (hl : x.life = .stopped) :
    ({ x with life := .free } : Slot).sameFuture { y with life := .free } ∧ y.exit = x.exit := by
  obtain ⟨d, hd, rfl⟩ := Slot.sameFuture_iff.mp h
  have hexit : x.exit = d.exit := hd.exit (by simp [hl])
  exact ⟨Slot.sameFuture_of_not_running rfl nofun hexit, hexit.symm⟩

/-- A START that launches leaves one future. -/
theorem Slot.launch_sameFuture (n : Nat) (str : List RdResult) (h : x.sameFuture y) :
    (x.launch n str).sameFuture (y.launch n str) := by
  obtain ⟨d, -, rfl⟩ := Slot.sameFuture_iff.mp h
  exact Slot.sameFuture_of_hunting rfl rfl rfl

/-! ### Two machines in lockstep -/

/-- What slot `j` may hold in two machines that agree but for stale values of slot `k`. -/
structure Slot.AlikeAt (k j : Nat) (x y : Slot) : Prop where
  future : x.sameFuture y
  other : j ≠ k → y = x

theorem Slot.AlikeAt.refl (k j : Nat) (x : Slot) : Slot.AlikeAt k j x x := ⟨x.sameFuture_refl, fun _ => rfl⟩

/-- An update of both slots that leaves one future. -/
theorem Slot.AlikeAt.map (h : Slot.AlikeAt k j x y) (f : Slot → Slot) (hf : x.sameFuture y → (f x).sameFuture (f y)) :
    Slot.AlikeAt k j (f x) (f y) := ⟨hf h.future, fun hj => congrArg f (h.other hj)⟩

theorem Slot.AlikeAt.mapNeutral (h : Slot.AlikeAt k j x y) (f : Slot → Slot) (hf : Slot.Neutral f) :
    Slot.AlikeAt k j (f x) (f y) := h.map f hf.sameFuture

/-- Two machines that agree but for stale values of slot `k`, and have done the same since their records of effects were `b` and
`b'`. -/
structure State.Lockstep (k : Nat) (b b' : List Effect) (s u : State) : Prop where
  slot : ∀ j, Slot.AlikeAt k j (s.slot j) (u.slot j)
  params : u.params = s.params
  registered : u.registered = s.registered
  nextHandle : u.nextHandle = s.nextHandle
  inputs : u.inputs = s.inputs
  ans : u.ans = s.ans
  draw : u.draw = s.draw
  fnResult : u.fnResult = s.fnResult
  effects : ∃ es, s.effects = es ++ b ∧ u.effects = es ++ b'

theorem State.lockstep_iff {b b' : List Effect} {s u : State} :
    s.Lockstep k b b' u ↔ s.sameFutureAt k u ∧ ∃ es, s.effects = es ++ b ∧ u.effects = es ++ b' := by
  constructor
  · rintro ⟨hslot, hparams, hreg, hnext, hin, hans, hdraw, hfn, heff⟩
    exact ⟨⟨(hslot k).future, fun j hj => (hslot j).other hj, hparams, hreg, hnext, hin, hans, hdraw, hfn⟩, heff⟩
  · rintro ⟨⟨hk, hother, hparams, hreg, hnext, hin, hans, hdraw, hfn⟩, heff⟩
    refine ⟨fun j => ?_, hparams, hreg, hnext, hin, hans, hdraw, hfn, heff⟩
    by_cases hj : j = k
    · subst hj
      exact ⟨hk, fun h => absurd rfl h⟩
    · rw [hother j hj]
      exact .refl k j _

end

/-- Where the first outcome is a next state, so is the second, and the machines are in lockstep. -/
def Result.Follows (k : Nat) (b b' : List Effect) (r r' : Result) : Prop :=
  ∀ t, r = .next t → ∃ t', r' = .next t' ∧ t.Lockstep k b b' t'

/-- Two fetches that select the same, in machines in lockstep. -/
inductive Fetched.Lockstep (k : Nat) (b b' : List Effect) : Fetched → Fetched → Prop
  | run (i : Instr) {t t' : State} (h : t.Lockstep k b b' t') : Fetched.Lockstep k b b' (.run i t) (.run i t')
  | idle {t t' : State} (h : t.Lockstep k b b' t') : Fetched.Lockstep k b b' (.idle t) (.idle t')

section
variable {k j n : Nat} {b b' es : List Effect} {s u : State} {x y : Slot} {i : Instr}

theorem Result.follows_next (h : s.Lockstep k b b' u) : Result.Follows k b b' (.next s) (.next u) := by
  rintro t ⟨⟩
  exact ⟨u, rfl, h⟩

theorem Result.follows_refused (e : Refusal) (r : Result) : Result.Follows k b b' (.refused e) r :=
  fun _ h => by cases h

namespace State.Lockstep

/-! ### The operations on the state -/

theorem setSlot (h : s.Lockstep k b b' u) (hx : Slot.AlikeAt k j x y) : (s.setSlot j x).Lockstep k b b' (u.setSlot j y) where
  __ := h
  slot i := by
    rw [State.setSlot_slot, State.setSlot_slot]
    split
    · next e => exact e ▸ hx
    · exact h.slot i

theorem mapSlot (h : s.Lockstep k b b' u) (f : Slot → Slot)
    (hf : (s.slot j).sameFuture (u.slot j) → (f (s.slot j)).sameFuture (f (u.slot j))) :
    (s.setSlot j (f (s.slot j))).Lockstep k b b' (u.setSlot j (f (u.slot j))) :=
  h.setSlot ((h.slot j).map f hf)

theorem mapNeutral (h : s.Lockstep k b b' u) (j : Nat) (f : Slot → Slot) (hf : Slot.Neutral f) :
    (s.setSlot j (f (s.slot j))).Lockstep k b b' (u.setSlot j (f (u.slot j))) :=
  h.setSlot ((h.slot j).mapNeutral f hf)

theorem emits (h : s.Lockstep k b b' u) (es : List Effect) :
    ({ s with effects := es ++ s.effects } : State).Lockstep k b b' { u with effects := es ++ u.effects } where
  __ := h
  slot := h.slot
  effects := by
    obtain ⟨es', hs, hu⟩ := h.effects
    exact ⟨es ++ es', by simp [hs], by simp [hu]⟩

theorem emit (h : s.Lockstep k b b' u) (e : Effect) : (s.emit e).Lockstep k b b' (u.emit e) := h.emits [e]

theorem moved (h : s.Lockstep k b b' u) (hx : Slot.AlikeAt k j x y) (es : List Effect) (n : Nat) :
    (s.moved j x es n).Lockstep k b b' (u.moved j y es n) where
  __ := (h.setSlot hx).emits es
  slot := (h.setSlot hx).slot
  draw := rfl

theorem resumeCalls (h : s.Lockstep k b b' u) (hd : Nat) : (s.resumeCalls hd).Lockstep k b b' (u.resumeCalls hd) where
  __ := h
  slot i := by
    rw [State.resumeCalls_slot, State.resumeCalls_slot]
    exact (h.slot i).map _ (Slot.neutral_resumeCall hd).sameFuture

theorem hardwareReset (h : s.Lockstep k b b' u) : s.hardwareReset.Lockstep k b b' u.hardwareReset where
  __ := h
  slot i := .refl k i _
  registered := rfl
  fnResult := rfl

theorem taken (h : s.Lockstep k b b' u) (rest : List Turn) :
    ({ s with inputs := rest } : State).Lockstep k b b' { u with inputs := rest } where
  __ := h
  slot := h.slot
  inputs := rfl

theorem answered (h : s.Lockstep k b b' u) (rest : List Turn) (a : Answers) :
    ({ s with inputs := rest, ans := a } : State).Lockstep k b b' { u with inputs := rest, ans := a } where
  __ := h
  slot := h.slot
  inputs := rfl
  ans := rfl

end State.Lockstep
end

section
variable {k j n : Nat} {b b' es : List Effect} {s u : State} {x y : Slot} {i : Instr}
/-- The event map looks at `S.HCNT` while a header is read and at `S.FPOS` while frames are, and nowhere else (R114). -/
theorem eventOf_congr {m : Byte} {q q' : Sequencer} {r : RdResult} (hf : q'.fsm = q.fsm)
    (hh : q.fsm = .readingHeader → q'.hcnt = q.hcnt) (hp : q.fsm = .readingFrames → q'.fpos = q.fpos) :
    eventOf m q' k r = eventOf m q k r := by
  obtain ⟨f, c, p⟩ := q
  obtain ⟨f', c', p'⟩ := q'
  obtain rfl : f' = f := hf
  cases f' with
  | hunting | delivering => cases r <;> rfl
  | readingHeader =>
    obtain rfl : c' = c := hh rfl
    cases r <;> rfl
  | readingFrames =>
    obtain rfl : p' = p := hp rfl
    cases r <;> rfl

namespace State.Lockstep

/-! ### What the operations read -/

/-- What no stale value is part of is the same in both slots. -/
theorem field {α : Type} (h : s.Lockstep k b b' u) (F : Slot → α) (hF : ∀ x d, F (x.withStale d) = F x) (j : Nat) :
    F (u.slot j) = F (s.slot j) := Slot.sameFuture_field (h.slot j).future F hF

theorem allocSlot_eq (h : s.Lockstep k b b' u) : u.allocSlot = s.allocSlot := by
  have hfree : u.slots.findIdx (fun x => x.life == .free) = s.slots.findIdx (fun x => x.life == .free) :=
    findIdx_slotAt_congr rfl (h.field (fun x => x.life == .free) fun _ _ => rfl)
  simp only [State.allocSlot, h.ans, h.params, hfree]

theorem findHandle_eq (h : s.Lockstep k b b' u) (hd : Nat) : u.findHandle hd = s.findHandle hd :=
  findIdx?_slotAt_congr rfl (h.field (fun x => x.life != .free && x.handle == hd) fun _ _ => rfl)

theorem sharesDevice_eq (h : s.Lockstep k b b' u) (path : DevPath) (dev : DevHandle) :
    u.sharesDevice path dev = s.sharesDevice path dev :=
  any_slotAt_congr rfl
    (h.field (fun y => y.life != .free && y.devOpen && (y.dev == dev || y.cfg.path == path)) fun _ _ => rfl)

theorem joinWaits_eq (h : s.Lockstep k b b' u) (hd : Nat) : u.joinWaits hd = s.joinWaits hd := by
  simp only [State.joinWaits, h.findHandle_eq]
  cases s.findHandle hd with
  | none => rfl
  | some j => exact h.field (fun x => x.life != .stopped) (fun _ _ => rfl) j

/-! ### START -/

theorem cleanup (h : s.Lockstep k b b' u) (hx : Slot.AlikeAt k j x y) (hl : x.life = .free) (opened : Bool) (r : StartReason) :
    (s.cleanup j x opened r).Lockstep k b b' (u.cleanup j y opened r) := by
  have hfreed := hx.map (fun x => { x with cfgChanged := false, devOpen := false, life := .free }) fun hs =>
    Slot.freed_sameFuture hs (by simp [hl])
  obtain ⟨d, -, rfl⟩ := Slot.sameFuture_iff.mp hx.future
  have hrestore : (s.restoreCfg x).Lockstep k b b' (u.restoreCfg (x.withStale d)) := by
    simp only [State.restoreCfg, Slot.withStale_cfgChanged, Slot.withStale_dev, Slot.withStale_savedCfg, h.ans]
    split_ifs
    · exact h.emit _
    · exact h
  cases opened with
  | false => exact (hrestore.setSlot hfreed).emit _
  | true =>
    have hclose : ((s.restoreCfg x).closeDev x).Lockstep k b b' ((u.restoreCfg (x.withStale d)).closeDev (x.withStale d)) := by
      rw [State.closeDev, State.closeDev, hrestore.ans]
      exact hrestore.emit _
    exact (hclose.setSlot hfreed).emit _

theorem launch (h : s.Lockstep k b b' u) (hx : Slot.AlikeAt k j x y) (hl : x.life = .free) (opened : Bool) :
    Result.Follows k b b' (s.launch j x opened) (u.launch j y opened) := by
  have hfail := h.cleanup hx hl opened .launchFailed
  have hlaunched := h.setSlot (hx.map (Slot.launch s.nextHandle s.ans.stream) (Slot.launch_sameFuture _ _))
  obtain ⟨d, -, rfl⟩ := Slot.sameFuture_iff.mp hx.future
  simp only [State.launch, Slot.withStale_cfg, Slot.withStale_dev, h.ans, h.nextHandle, h.sharesDevice_eq]
  split_ifs
  · exact Result.follows_next hfail
  · exact Result.follows_refused _ _
  · exact Result.follows_next { hlaunched with slot := hlaunched.slot, nextHandle := rfl }

theorem configure (h : s.Lockstep k b b' u) (hx : Slot.AlikeAt k j x y) (hl : x.life = .free) (opened : Bool) :
    Result.Follows k b b' (s.configure j x opened) (u.configure j y opened) := by
  have hlaunch := h.launch hx hl opened
  have hsaved := fun q => hx.mapNeutral (fun x => { x with savedCfg := q }) fun _ _ => ⟨rfl, rfl, rfl, rfl⟩
  have hset := fun q => hx.mapNeutral (fun x => { x with savedCfg := q, cfgChanged := true }) fun _ _ => ⟨rfl, rfl, rfl, rfl⟩
  have hquery := (h.emit (.devQueryCfg x.dev none)).cleanup hx hl opened .configQueryFailed
  obtain ⟨d, -, rfl⟩ := Slot.sameFuture_iff.mp hx.future
  simp only [State.configure, Slot.withStale_cfg, Slot.withStale_dev, h.ans, h.params]
  by_cases hraw : x.cfg.raw = false
  · simpa only [if_pos hraw] using hlaunch
  · simp only [if_neg hraw]
    cases s.ans.queryAns with
    | none => exact Result.follows_next hquery
    | some q =>
      have htried := (h.emit (.devQueryCfg x.dev (some q))).emit (.devSetRaw x.dev s.params.rawBaud s.ans.setRawOk)
      dsimp only
      split_ifs
      · exact Result.follows_next (htried.cleanup (hsaved q) hl opened .configSetFailed)
      · exact htried.launch (hset q) hl opened

theorem startOn (h : s.Lockstep k b b' u) (hl : (s.slot j).life = .free) (path : DevPath) (raw : Bool)
    (handler : Option HandlerRef) (arg : HandlerArg) (dev : DevHandle) (opened : Bool) :
    Result.Follows k b b' (s.startOn j path raw handler arg dev opened) (u.startOn j path raw handler arg dev opened) := by
  cases handler with
  | none => exact Result.follows_refused _ _
  | some hd => exact h.configure ((h.slot j).mapNeutral _ (Slot.neutral_latch _ dev)) hl opened

theorem exec_start (h : s.Lockstep k b b' u) (path : DevPath) (raw : Bool) (handler : Option HandlerRef) (arg : HandlerArg) :
    Result.Follows k b b' (execStart path raw handler arg s) (execStart path raw handler arg u) := by
  simp only [execStart, h.registered, h.allocSlot_eq, h.params, h.ans]
  by_cases hr : s.registered = false
  · simp only [if_pos hr]
    exact Result.follows_next (h.emit _)
  · simp only [if_neg hr]
    cases ha : s.allocSlot with
    | none => exact Result.follows_next (h.emit _)
    | some j =>
      obtain ⟨hl, -⟩ := s.allocSlot_some j ha
      dsimp only
      split_ifs
      · exact h.startOn hl path raw handler arg s.params.stdStream false
      · have hopened := h.emit (.devOpen path s.ans.openAns)
        revert hopened
        cases s.ans.openAns with
        | none => exact fun hopened => Result.follows_next (hopened.emit _)
        | some dev => exact fun hopened => hopened.startOn hl path raw handler arg dev true

/-! ### JOIN and START's result -/

theorem exec_join (h : s.Lockstep k b b' u) (hd : Nat) :
    Result.Follows k b b' (exec (.join hd) s) (exec (.join hd) u) := by
  cases hf : s.findHandle hd with
  | none =>
    rw [exec_join_of_not_found hf]
    exact Result.follows_refused _ _
  | some j =>
    rw [exec_join_of_found hf, exec_join_of_found ((h.findHandle_eq hd).trans hf)]
    have hwait := h.mapNeutral j (fun x => { x with joinWait := true }) fun _ _ => ⟨rfl, rfl, rfl, rfl⟩
    have hjoined := Slot.joined_sameFuture (h.slot j).future
    have hfree := fun hl => h.mapSlot (j := j) (fun x => { x with life := .free }) fun _ => (hjoined hl).1
    have hok := h.field Slot.okPending (fun _ _ => rfl) j
    have hjw := h.field Slot.joinWait (fun _ _ => rfl) j
    have hlife := h.field Slot.life (fun _ _ => rfl) j
    rw [hok, hjw, hlife]
    split_ifs with hw hl
    · exact Result.follows_refused _ _
    · rw [(hjoined hl).2]
      exact Result.follows_next ((hfree hl).emit _)
    · exact Result.follows_next hwait

theorem startReturns (h : s.Lockstep k b b' u) (hd : Nat) : (s.startReturns hd).Lockstep k b b' (u.startReturns hd) := by
  simp only [State.startReturns, h.findHandle_eq]
  cases s.findHandle hd with
  | none => exact h
  | some j =>
    have hgone := h.mapNeutral j (fun x => { x with okPending := false }) fun _ _ => ⟨rfl, rfl, rfl, rfl⟩
    have hok := h.field Slot.okPending (fun _ _ => rfl) j
    simp only [hok]
    split_ifs
    · exact hgone.emit _
    · exact h

/-! ### Instructions -/

theorem exec_valid (h : s.Lockstep k b b' u) (span : List Byte) :
    Result.Follows k b b' (execValid span s) (execValid span u) := by
  simp only [execValid, h.draw]
  split_ifs
  · exact Result.follows_next { h with slot := h.slot, draw := congrArg (· + 1) h.draw, fnResult := rfl }
  · exact Result.follows_next { h with slot := h.slot, fnResult := rfl }

/-- Every instruction does the same to both machines. -/
theorem exec_follows (h : s.Lockstep k b b' u) (i : Instr) : Result.Follows k b b' (exec i s) (exec i u) := by
  cases hk : instanceOf i with
  | some j =>
    intro t ht
    obtain ⟨y, es, n, hm, rfl⟩ := (exec_instance_iff i s t j hk).mp ht
    obtain ⟨y', hm', hy⟩ : ∃ y', SlotMove s.params s.ans s.draw j (u.slot j) i y' es n ∧ Slot.AlikeAt k j y y' := by
      obtain ⟨hfut, hother⟩ := h.slot j
      by_cases hj : j = k
      · obtain ⟨y', hm', hy⟩ := hm.sameFuture hfut
        exact ⟨y', hm', hy, fun hne => absurd hj hne⟩
      · exact ⟨y, (hother hj).symm ▸ hm, .refl k j y⟩
    refine ⟨_, (exec_instance_iff i u _ j hk).mpr ⟨y', es, n, ?_, rfl⟩, h.moved hy es n⟩
    rwa [h.params, h.ans, h.draw]
  | none =>
    cases i <;> simp only [instanceOf, reduceCtorEq] at hk
    case start path raw handler arg => exact h.exec_start path raw handler arg
    case join => exact h.exec_join _
    case valid => exact h.exec_valid _
    case register => exact Result.follows_next { h with slot := h.slot, registered := rfl }
    all_goals exact Result.follows_next { h with slot := h.slot, fnResult := rfl }

/-! ### The fetch -/

theorem fetchRead (h : s.Lockstep k b b' u) (hl : (s.slot j).life = .running) :
    (fetchRead j s).Lockstep k b b' (fetchRead j u) := by
  have hread := fun rest => h.mapNeutral j (fun x => { x with stream := rest }) fun _ _ => ⟨rfl, rfl, rfl, rfl⟩
  have header := Slot.sameFuture_header (h.slot j).future hl
  have frames := Slot.sameFuture_frames (h.slot j).future hl
  have hstream := h.field Slot.stream (fun _ _ => rfl) j
  have hcnt : (s.slot j).fsm = .readingHeader → (u.slot j).hcnt = (s.slot j).hcnt := fun hf =>
    have ⟨hcnt, _⟩ := header hf
    hcnt
  have hpos : (s.slot j).fsm = .readingFrames → (u.slot j).fpos = (s.slot j).fpos := fun hf =>
    have ⟨_, _, hpos, _⟩ := frames hf
    hpos
  have hevent (r : RdResult) : eventOf s.params.marker (u.slot j).sequencer j r =
      eventOf s.params.marker (s.slot j).sequencer j r :=
    eventOf_congr (h.field Slot.fsm (fun _ _ => rfl) j) hcnt hpos
  simp only [Machine.fetchRead, hstream, h.params, hevent]
  cases (s.slot j).stream with
  | nil => exact .idle h
  | cons r rest =>
    dsimp only
    cases eventOf s.params.marker (s.slot j).sequencer j r with
    | ok i => exact .run i (hread rest)
    | error => exact .idle h

theorem fetchInst (h : s.Lockstep k b b' u) (j : Nat) : (fetchInst j s).Lockstep k b b' (fetchInst j u) := by
  have hread := h.fetchRead (j := j)
  have hlife := h.field Slot.life (fun _ _ => rfl) j
  have hfsm := h.field Slot.fsm (fun _ _ => rfl) j
  have htd := h.field Slot.td (fun _ _ => rfl) j
  have hcall := h.field Slot.call (fun _ _ => rfl) j
  have hdone := h.field Slot.sentinelDone (fun _ _ => rfl) j
  have hret : (u.slot j).callReturns u.ans = (s.slot j).callReturns s.ans := by
    rw [h.ans]
    exact h.field (Slot.callReturns s.ans) (fun _ _ => rfl) j
  unfold Machine.fetchInst
  dsimp only
  rw [hlife, hfsm, htd, hcall, hdone, hret]
  cases hl : (s.slot j).life with
  | free | stopped => exact .idle h
  | running =>
    cases (s.slot j).fsm with
    | hunting | readingHeader | readingFrames => exact hread hl
    | delivering =>
      cases (s.slot j).call with
      | none => exact .run _ h
      | some c =>
        cases c with
        | sentinel => exact .idle h
        | packet =>
          dsimp only
          split_ifs
          · exact .run _ h
          · exact .idle h
  | teardown =>
    cases (s.slot j).td with
    | restore | close | release => exact .run _ h
    | sentinel =>
      cases (s.slot j).call with
      | none =>
        dsimp only
        split_ifs
        · exact .idle h
        · exact .run _ h
      | some c =>
        cases c with
        | packet => exact .idle h
        | sentinel =>
          dsimp only
          split_ifs
          · exact .run _ h
          · exact .idle h

theorem fetchWake (h : s.Lockstep k b b' u) (hd : Nat) : (fetchWake hd s).Lockstep k b b' (fetchWake hd u) := by
  simp only [Machine.fetchWake, h.findHandle_eq]
  cases s.findHandle hd with
  | none => exact .idle h
  | some j =>
    have hwoken := h.mapNeutral j (fun x => { x with joinWait := false }) fun _ _ => ⟨rfl, rfl, rfl, rfl⟩
    have hgo : ((u.slot j).life = .stopped ∧ (u.slot j).joinWait = true) ↔
        (s.slot j).life = .stopped ∧ (s.slot j).joinWait = true := by
      rw [h.field Slot.life (fun _ _ => rfl) j, h.field Slot.joinWait (fun _ _ => rfl) j]
    simp only [hgo]
    split_ifs
    · exact .run _ (hwoken.resumeCalls hd)
    · exact .idle h

theorem fetchHandlerJoin (h : s.Lockstep k b b' u) (j hd : Nat) :
    (fetchHandlerJoin j hd s).Lockstep k b b' (fetchHandlerJoin j hd u) := by
  have hheld : (s.holdCall j hd).Lockstep k b b' (u.holdCall j hd) :=
    h.mapNeutral j (fun x => { x with callJoin := some hd }) fun _ _ => ⟨rfl, rfl, rfl, rfl⟩
  have hcall := h.field Slot.call (fun _ _ => rfl) j
  have hcj := h.field Slot.callJoin (fun _ _ => rfl) j
  simp only [Machine.fetchHandlerJoin, hcall, hcj, h.joinWaits_eq]
  split_ifs
  · exact .run _ hheld
  · exact .run _ h
  · exact .idle h

/-- Whatever turn is next, it selects the same in both machines. -/
theorem fetch (h : s.Lockstep k b b' u) : (fetch s).Lockstep k b b' (fetch u) := by
  unfold Machine.fetch
  rw [h.inputs]
  cases hin : s.inputs with
  | nil => exact .idle h
  | cons turn rest =>
    cases turn with
    | op i a =>
      dsimp only
      split_ifs
      · exact .run i (h.answered rest a)
      · exact .idle (h.answered rest a)
    | startReturns hd => exact .idle ((h.taken rest).startReturns hd)
    | wake hd => exact (h.taken rest).fetchWake hd
    | handlerJoin j hd => exact (h.taken rest).fetchHandlerJoin j hd
    | inst j a => exact (h.answered rest a).fetchInst j
    | hardwareReset => exact .idle (h.taken rest).hardwareReset

/-- A step keeps two machines in lockstep. -/
theorem step (h : s.Lockstep k b b' u) : Result.Follows k b b' (step s) (step u) := by
  have hfetch := h.fetch
  unfold Machine.step
  revert hfetch
  generalize Machine.fetch s = f
  generalize Machine.fetch u = f'
  rintro (⟨i, ht⟩ | ht)
  · exact ht.exec_follows i
  · exact Result.follows_next ht

/-- A run keeps two machines in lockstep. -/
theorem run (h : s.Lockstep k b b' u) (n : Nat) : Result.Follows k b b' (Sys2Proof.core.run n s) (Sys2Proof.core.run n u) := by
  intro t ht
  induction n generalizing s u with
  | zero =>
    obtain rfl := run_zero.mp ht
    exact ⟨u, rfl, h⟩
  | succ n ih =>
    obtain ⟨v, hv, hrun⟩ := run_succ ht
    obtain ⟨v', hv', hlock⟩ := h.step v hv
    obtain ⟨t', ht', htlock⟩ := ih hlock hrun
    exact ⟨t', run_of_step hv' ht', htlock⟩

end State.Lockstep

theorem State.lockstep_of_sameFutureAt (h : s.sameFutureAt k u) : s.Lockstep k s.effects u.effects u :=
  State.lockstep_iff.mpr ⟨h, [], rfl, rfl⟩

/-- What the handler reads in its packet call is the same: a call is in progress in DELIVERING only, where the packet is. -/
theorem handlerRead_eq_of_sameFuture (hdraw : u.draw = s.draw) (h : (s.slot j).sameFuture (u.slot j)) (hc : (s.slot j).callInv)
    (i : Nat) : handlerRead u j i = handlerRead s j i := by
  have packet := Slot.sameFuture_packet h
  obtain ⟨d, -, e⟩ := Slot.sameFuture_iff.mp h
  have hcall := Slot.sameFuture_field h Slot.call fun _ _ => rfl
  by_cases hp : (s.slot j).call = some .packet
  · obtain ⟨hpkt, -⟩ := hc
    obtain ⟨hl, hf⟩ := hpkt hp
    obtain ⟨hfields, hpay⟩ := packet hl hf
    simp only [handlerRead, hcall, hp, hfields, hdraw, memRead, if_true]
    split_ifs with hi
    · rw [hpay i hi]
    · rfl
  · rw [handlerRead_outside_call i hp, handlerRead_outside_call i (hcall ▸ hp)]

end

/-- Settles O58: in every operation of the model the two machines do the same, since a move of the instance writes a stale value
before it reads it (`SlotMove.sameFuture`), and every other turn looks at no such value. -/
theorem abandonedValuesAreNeverSeen : Obligations.AbandonedValuesAreNeverSeen := by
  refine ⟨fun x c c' hc hb fp fb fi p m cs hl => Slot.sameFuture_of_hunting rfl hl rfl, fun s u t k h hs => ?_,
    fun s u t k n h hs => ?_, fun s u k j i h hc => ?_⟩
  · obtain ⟨t', ht', hlock⟩ := (State.lockstep_of_sameFutureAt h).step t hs
    obtain ⟨hfut, es, heff⟩ := State.lockstep_iff.mp hlock
    exact ⟨t', es, ht', hfut, heff⟩
  · obtain ⟨t', ht', hlock⟩ := (State.lockstep_of_sameFutureAt h).run n t hs
    obtain ⟨hfut, es, heff⟩ := State.lockstep_iff.mp hlock
    exact ⟨t', es, ht', hfut, heff⟩
  · have hlock := State.lockstep_of_sameFutureAt h
    by_cases hj : j = k
    · exact handlerRead_eq_of_sameFuture hlock.draw (hlock.slot j).future (hj ▸ hc) i
    · unfold handlerRead
      rw [(hlock.slot j).other hj, hlock.draw]

end Sys2Proof.Machine
end

section
/-!
PROOFS. The reset and hazards family (70_reset_and_hazards.md): a handler that joins its own instance is stuck in its call (O43);
hardware reset discards the instances, and their handles with them (O49).
-/

namespace Sys2Proof.Machine

/-! ### Runs -/

/-- What every step keeps, every run keeps. -/
theorem run_induction {P : State → Prop} (hstep : ∀ {s t : State}, P s → step s = .next t → P t) {n : Nat} {s t : State}
    (hs : P s) (hr : Sys2Proof.core.run n s = .next t) : P t := by
  induction n generalizing s with
  | zero => exact run_zero.mp hr ▸ hs
  | succ n ih =>
    obtain ⟨u, hu, hr⟩ := run_succ hr
    exact ih (hstep hs hu) hr

/-! ### The turns -/

section
variable {s t : State}

/-- A host operation that goes on takes no turn. -/
theorem exec_fromOutside_inputs {i : Instr} (ho : fromOutside i = true) (he : exec i s = .next t) : t.inputs = s.inputs := by
  cases i <;> simp only [fromOutside, reduceCtorEq] at ho
  case start => obtain ⟨es, -, rfl | ⟨k, c, dev, q, r, -, -, rfl | rfl⟩⟩ := execStart_next he <;> rfl
  case join => obtain ⟨k, -, -, -, ⟨-, rfl⟩ | ⟨-, rfl⟩⟩ := execJoin_next he <;> rfl
  case valid span =>
    rcases eq_or_ne span [] with rfl | hne
    · cases (exec_valid_nil s).symm.trans he
      rfl
    · cases (exec_valid_of_ne_nil s hne).symm.trans he
      rfl
  all_goals
    cases he
    rfl

theorem State.startReturns_inputs (s : State) (hd : Nat) : (s.startReturns hd).inputs = s.inputs := by
  rcases s.startReturns_cases hd with e | ⟨k, -, -, e⟩ <;> rw [e]
  rfl

/-- A step takes the oldest turn, and makes none. -/
theorem step_inputs (hs : step s = .next t) : t.inputs = s.inputs.tail := by
  rcases step_cases hs with ⟨hin, rfl⟩ | ⟨rest, hin, rfl⟩ | ⟨i, a, rest, hin, rfl | ⟨ho, he⟩⟩ | ⟨hd, rest, hin, rfl⟩ |
    ⟨hd, rest, hin, rfl | ⟨k, -, -, -, he⟩⟩ | ⟨k, hd, rest, hin, rfl | ⟨-, -, ⟨-, he⟩ | ⟨-, he⟩⟩⟩ | ⟨k, a, rest, hin⟩ <;>
    rw [hin]
  · rfl
  · rfl
  · rfl
  · exact exec_fromOutside_inputs ho he
  · exact State.startReturns_inputs _ hd
  · rfl
  · exact exec_fromOutside_inputs rfl he
  · rfl
  · exact exec_fromOutside_inputs rfl he
  · exact exec_fromOutside_inputs rfl he
  · obtain rfl | ⟨i, x, y, es, d, -, -, rfl⟩ := step_inst hin hs <;> rfl

end

/-! ### A handler that joins its own instance -/

/-- The handler call in progress waits in a JOIN of its own instance (R334). -/
def Slot.joinsItself (x : Slot) : Prop := x.callInv ∧ x.call ≠ none ∧ x.callJoin = some x.handle

/-- Slot `y` is slot `x` but for the bits of START's result on its way to the host and of the waiting JOIN. -/
abbrev Slot.hostWaitsOnly (x y : Slot) : Prop := y = { x with okPending := y.okPending, joinWait := y.joinWait }

section
variable {x y z : Slot}

/-- Where a handler call is in progress (R82, R266). -/
theorem Slot.callInv.cases (h : x.callInv) (hc : x.call ≠ none) :
    (x.life = .running ∧ x.fsm = .delivering ∧ x.call = some .packet) ∨
    (x.life = .teardown ∧ x.td = .sentinel ∧ x.call = some .sentinel) := by
  obtain ⟨hpkt, hsent, -⟩ := h
  obtain ⟨c, hcall⟩ := Option.ne_none_iff_exists'.mp hc
  cases c with
  | packet =>
    obtain ⟨hl, hf⟩ := hpkt hcall
    exact .inl ⟨hl, hf, hcall⟩
  | sentinel =>
    obtain ⟨hl, ht⟩ := hsent hcall
    exact .inr ⟨hl, ht, hcall⟩

/-- An instance whose handler is called exists and is not STOPPED. -/
theorem Slot.callInv.life (h : x.callInv) (hc : x.call ≠ none) : x.live ∧ x.life ≠ .stopped := by
  rcases h.cases hc with ⟨hl, -⟩ | ⟨hl, -⟩ <;> simp [hl]

theorem Slot.hostWaitsOnly.trans (h1 : x.hostWaitsOnly y) (h2 : y.hostWaitsOnly z) : x.hostWaitsOnly z := by
  rw [Slot.hostWaitsOnly, h2, h1]

theorem Slot.joinsItself.of_hostWaitsOnly (hx : x.joinsItself) (h : x.hostWaitsOnly y) : y.joinsItself := by
  rw [h]
  exact hx

end

section
variable {s t : State} {k hd : Nat}

theorem State.setSlot_hostWaitsOnly {x : Slot} (j : Nat) (h : (s.slot j).hostWaitsOnly x) :
    (s.slot k).hostWaitsOnly ((s.setSlot j x).slot k) := by
  rw [State.setSlot_slot]
  split_ifs with e
  · exact e ▸ h
  · rfl

/-- A JOIN that goes on frees no slot but a STOPPED one, and ends no handler's wait itself. -/
theorem exec_join_hostWaitsOnly {u : State} (he : exec (.join hd) u = .next t) (hu : u.slot k = s.slot k)
    (hl : (s.slot k).life ≠ .stopped) : (s.slot k).hostWaitsOnly (t.slot k) := by
  rw [← hu] at hl ⊢
  obtain ⟨j, -, -, -, ⟨hj, rfl⟩ | ⟨-, rfl⟩⟩ := execJoin_next he
  · have hne : k ≠ j := fun e => hl (e ▸ hj)
    rw [State.emit_slot, State.setSlot_slot, if_neg hne]
  · exact State.setSlot_hostWaitsOnly j rfl

theorem State.startReturns_hostWaitsOnly (s : State) (hd k : Nat) : (s.slot k).hostWaitsOnly ((s.startReturns hd).slot k) := by
  rcases s.startReturns_cases hd with e | ⟨j, -, -, e⟩ <;> rw [e]
  exact State.setSlot_hostWaitsOnly j rfl

/-- START takes a FREE slot, and JOIN frees a STOPPED one. -/
theorem exec_fromOutside_hostWaitsOnly {i : Instr} (ho : fromOutside i = true) (he : exec i s = .next t) (hl : (s.slot k).live)
    (hstop : (s.slot k).life ≠ .stopped) : (s.slot k).hostWaitsOnly (t.slot k) := by
  rcases exec_fromOutside ho he with ⟨path, raw, hr, arg, rfl⟩ | ⟨h, rfl⟩ | ⟨hslots, -⟩
  · obtain ⟨es, -, rfl | ⟨j, c, dev, q, r, hj, -, H⟩⟩ := execStart_next he
    · rfl
    · obtain ⟨hfree, -⟩ := s.allocSlot_some j hj
      have hne : k ≠ j := fun e => hl (e ▸ hfree)
      rcases H with rfl | rfl <;> simp [State.slot, slotAt_setSlotAt, hne]
  · exact exec_join_hostWaitsOnly he rfl hstop
  · simp [State.slot, hslots]

/-- A JOIN of another handle that waits looks again: the handler's JOIN waits on. -/
theorem exec_wake_hostWaitsOnly {j : Nat} (hi : s.handlesInv) (hx : (s.slot k).joinsItself) (hj : s.findHandle hd = some j)
    (hstop : (s.slot j).life = .stopped)
    (he : exec (.join hd) ((s.setSlot j { s.slot j with joinWait := false }).resumeCalls hd) = .next t) :
    (s.slot k).hostWaitsOnly (t.slot k) := by
  obtain ⟨hcall, hc, hjoin⟩ := hx
  obtain ⟨hlive, hl⟩ := hcall.life hc
  have hne : k ≠ j := fun e => hl (e ▸ hstop)
  have hhd : (s.slot k).handle ≠ hd := fun e =>
    hne (Option.some.inj ((State.findHandle_of_live hi hlive e).symm.trans hj))
  refine exec_join_hostWaitsOnly he ?_ hl
  rw [State.resumeCalls_slot, State.setSlot_slot, if_neg hne, Slot.resumeCall, if_neg (by simpa [hjoin] using hhd)]

/-- The call that waits in the JOIN of its own instance does not return, so a turn of the instance passes (R308, R334). -/
theorem step_inst_hostWaitsOnly {j : Nat} {a : Answers} {rest : List Turn} (hx : (s.slot k).joinsItself)
    (hin : s.inputs = .inst j a :: rest) (hs : step s = .next t) : (s.slot k).hostWaitsOnly (t.slot k) := by
  obtain ⟨hcall, hc, hjoin⟩ := hx
  by_cases e : k = j
  · subst e
    obtain ⟨-, hwait⟩ := waitingChangesNothing
    have hret : (s.slot k).callJoin ≠ none := by simp [hjoin]
    have hpass : step s = .next { s with inputs := rest, ans := a } := hwait s k a rest hin <| by
      rcases hcall.cases hc with ⟨hl, hf, hc⟩ | ⟨hl, ht, hc⟩
      · exact .inr (.inl ⟨hl, hf, hc, .inr hret⟩)
      · exact .inr (.inr (.inl ⟨hl, ht, hc, .inr hret⟩))
    cases hpass.symm.trans hs
    rfl
  · rcases step_inst hin hs with rfl | ⟨i, x, y, es, d, -, -, rfl⟩
    · rfl
    · rw [State.moved_slot, if_neg e]
      rfl

/-- A step that is no hardware reset leaves an instance whose handler joined it as it is, but for what waits on the host's side. -/
theorem step_hostWaitsOnly (hi : s.handlesInv) (hx : (s.slot k).joinsItself) (hr : Turn.hardwareReset ∉ s.inputs)
    (hs : step s = .next t) : (s.slot k).hostWaitsOnly (t.slot k) := by
  have ⟨hcall, hc, hjoin⟩ := hx
  obtain ⟨hlive, hl⟩ := hcall.life hc
  rcases step_cases hs with ⟨-, rfl⟩ | ⟨rest, hin, -⟩ | ⟨i, a, rest, -, rfl | ⟨ho, he⟩⟩ | ⟨hd, rest, -, rfl⟩ |
    ⟨hd, rest, -, rfl | ⟨j, hj, hstop, -, he⟩⟩ | ⟨j, hd, rest, -, rfl | ⟨-, hfree, ⟨-, he⟩ | ⟨-, he⟩⟩⟩ | ⟨j, a, rest, hin⟩
  · rfl
  · simp [hin] at hr
  · rfl
  · exact exec_fromOutside_hostWaitsOnly (s := { s with inputs := rest, ans := a }) ho he hlive hl
  · exact State.startReturns_hostWaitsOnly { s with inputs := rest } hd k
  · rfl
  · exact exec_wake_hostWaitsOnly (s := { s with inputs := rest }) hi hx hj hstop he
  · rfl
  · have hne : k ≠ j := fun e => by simp [← e, hjoin] at hfree
    exact exec_join_hostWaitsOnly he ((State.holdCall_slot ..).trans (if_neg hne)) hl
  · exact exec_join_hostWaitsOnly he rfl hl
  · exact step_inst_hostWaitsOnly hx hin hs

/-- Once the handler of slot `k`, which held `x`, has joined its own instance: no hardware reset is to come, and the slot is as it
was, but for what waits on the host's side. -/
def State.stuckAt (k : Nat) (x : Slot) (s : State) : Prop :=
  s.handlesInv ∧ Turn.hardwareReset ∉ s.inputs ∧ x.hostWaitsOnly (s.slot k)

theorem step_stuckAt {x : Slot} (hx : x.joinsItself) (h : s.stuckAt k x) (hs : step s = .next t) : t.stuckAt k x := by
  obtain ⟨hi, hr, hslot⟩ := h
  refine ⟨stepKeepsHandlesDistinct s t hi hs, fun hmem => hr ?_, ?_⟩
  · exact List.mem_of_mem_tail (step_inputs hs ▸ hmem)
  · exact hslot.trans (step_hostWaitsOnly hi (hx.of_hostWaitsOnly hslot) hr hs)

/-- The turn in which the handler of slot `k` performs JOIN of its own instance: the JOIN and the call wait (R334, U20). -/
theorem step_handlerJoin_own {rest : List Turn} (hi : s.handlesInv) (hcall : (s.slot k).callInv)
    (hin : s.inputs = .handlerJoin k (s.slot k).handle :: rest) (hc : (s.slot k).call ≠ none)
    (hj : (s.slot k).callJoin = none) (hok : (s.slot k).okPending = false) (hw : (s.slot k).joinWait = false) :
    step s = .next ({ s with inputs := rest }.setSlot k
      { s.slot k with callJoin := some (s.slot k).handle, joinWait := true }) := by
  obtain ⟨hlive, hstop⟩ := hcall.life hc
  have hwaits : s.joinWaits (s.slot k).handle = true := by
    simp [State.joinWaits, State.findHandle_of_live hi hlive rfl, hstop]
  obtain ⟨-, -, -, -, -, hhandler⟩ := stepRunsTheSelectedEvent
  rw [hhandler s k _ rest hin hc hj, if_pos hwaits]
  generalize hu : ({ s with inputs := rest } : State).holdCall k (s.slot k).handle = u
  have huk : u.slot k = { s.slot k with callJoin := some (s.slot k).handle } := by
    rw [← hu, State.holdCall_slot, if_pos rfl]
    rfl
  have hui : u.handlesInv := by
    refine State.NoNewInstance.handlesInv (s := s) (hu ▸ State.noNewInstance_of_waitsOnly rfl rfl ?_) hi
    exact ({ s with inputs := rest } : State).setSlot_waitsOnly k _ rfl
  obtain ⟨hjoins, -⟩ := joinWaitsUntilStopped
  have hlife : (u.slot k).life = .running ∨ (u.slot k).life = .teardown := by
    rw [huk]
    exact (hcall.cases hc).imp And.left And.left
  rw [hjoins u k _ hui hlife (by rw [huk]) (by rw [huk]; exact hok) (by rw [huk]; exact hw), huk, ← hu]
  simp [State.holdCall, State.setSlot, setSlotAt_setSlotAt]

/-- A return of a call that waits in a JOIN is refused (R334, log 14). -/
theorem exec_return_of_callJoin (hj : (s.slot k).callJoin ≠ none) :
    exec (.deliverRet k) s = .refused (.eventNotSelected "DELIVER_RET") ∧
    exec (.tdSentinelRet k) s = .refused (.eventNotSelected "TD_SENTINEL_RET") := by
  simp only [exec, execDeliverRet, execTdSentinelRet]
  exact ⟨State.fire_refused _ _ _ _ _ (by simp [hj]), State.fire_refused _ _ _ _ _ (by simp [hj])⟩

end

/-- Settles O43: the wait of a call that joined its own instance is kept by every step but hardware reset (`step_stuckAt`), so by
every run without one. -/
theorem handlerThatJoinsItsOwnInstanceIsStuck : Obligations.HandlerThatJoinsItsOwnInstanceIsStuck := by
  refine ⟨fun s k rest => step_handlerJoin_own, fun n s t k hi hcall hc hj hr hrun => ?_, fun s k => exec_return_of_callJoin⟩
  have hx : (s.slot k).joinsItself := ⟨hcall, hc, hj⟩
  obtain ⟨-, -, hslot⟩ := run_induction (P := State.stuckAt k (s.slot k)) (step_stuckAt hx) ⟨hi, hr, rfl⟩ hrun
  exact hslot

/-! ### The handles of discarded instances -/

/-- Handle `h` is used up, and no instance has it. -/
def State.discarded (h : Nat) (s : State) : Prop := h < s.nextHandle ∧ ∀ k, (s.slot k).live → (s.slot k).handle ≠ h

section
variable {s t : State} {h : Nat}

/-- Hardware reset discards the handles of all instances (R320). -/
theorem State.discarded_hardwareReset {k : Nat} (hi : s.handlesInv) (hl : (s.slot k).live) :
    s.hardwareReset.discarded (s.slot k).handle := by
  obtain ⟨hused, -⟩ := State.handlesInv_iff.mp hi k hl
  exact ⟨hused, fun _ hl => absurd rfl hl⟩

/-- A step other than a turn of an instance makes no handler call, and gives new handles only (R305). -/
theorem step_quietly_or_inst (hs : step s = .next t) : s.quietly t ∨ ∃ k a rest, s.inputs = .inst k a :: rest := by
  rcases step_cases hs with ⟨-, rfl⟩ | ⟨rest, -, rfl⟩ | ⟨i, a, rest, -, rfl | ⟨ho, he⟩⟩ | ⟨hd, rest, -, rfl⟩ |
    ⟨hd, rest, -, rfl | ⟨k, -, -, -, he⟩⟩ | ⟨k, hd, rest, -, rfl | ⟨-, -, ⟨-, he⟩ | ⟨-, he⟩⟩⟩ | hinst
  · exact .inl (State.quietly_of_sameButWaits ⟨rfl, rfl, fun _ => rfl⟩)
  · exact .inl (State.quietly_hardwareReset { s with inputs := rest })
  · exact .inl (State.quietly_of_sameButWaits ⟨rfl, rfl, fun _ => rfl⟩)
  · exact .inl (State.quietly_fromOutside (s := { s with inputs := rest, ans := a }) ho he)
  · exact .inl (State.quietly_startReturns { s with inputs := rest } hd)
  · exact .inl (State.quietly_of_sameButWaits ⟨rfl, rfl, fun _ => rfl⟩)
  · refine .inl (State.quietly_join he ⟨rfl, rfl, fun j => ?_⟩)
    rw [State.resumeCalls_slot]
    exact Slot.waitsOnly_trans (({ s with inputs := rest } : State).setSlot_waitsOnly k _ rfl j) (Slot.resumeCall_waitsOnly hd _)
  · exact .inl (State.quietly_of_sameButWaits ⟨rfl, rfl, fun _ => rfl⟩)
  · exact .inl (State.quietly_join he ⟨rfl, rfl, ({ s with inputs := rest } : State).setSlot_waitsOnly k _ rfl⟩)
  · exact .inl (State.quietly_join he ⟨rfl, rfl, fun _ => rfl⟩)
  · exact .inr hinst

/-- No step gives a handle that is used up to an instance again (log 7). -/
theorem step_discarded (hd : s.discarded h) (hs : step s = .next t) : t.discarded h := by
  obtain ⟨hused, hnone⟩ := hd
  rcases step_quietly_or_inst hs with ⟨-, hnext, hslot⟩ | ⟨k, a, rest, hin⟩
  · refine ⟨hused.trans_le hnext, fun k hl => ?_⟩
    rcases hslot k hl with ⟨hl0, hh, -⟩ | ⟨hh, -⟩
    · exact hh ▸ hnone k hl0
    · exact (hused.trans_le hh).ne'
  · rcases step_inst hin hs with rfl | ⟨i, x, y, es, d, hf, hm, rfl⟩
    · exact ⟨hused, hnone⟩
    · obtain ⟨str, rfl⟩ := hf.exists_stream
      refine ⟨hused, fun j hl => ?_⟩
      rw [State.moved_slot] at hl ⊢
      split_ifs at hl ⊢ with e
      · exact hm.handle_eq ▸ hnone k hm.live
      · exact hnone j hl

end

/-- Settles O49: a FREE slot has no handle, and the handles of the discarded instances are used up in every run from there
(`step_discarded`). -/
theorem hardwareResetDiscardsInstances : Obligations.HardwareResetDiscardsInstances := by
  intro s rest hin
  obtain ⟨refused, -⟩ := joinIsRefusedWithoutItsOneInstance
  refine ⟨{ s with inputs := rest }.hardwareReset, by simp only [step, fetch, hin], rfl, fun _ => ⟨rfl, rfl, rfl, rfl, rfl⟩,
    rfl, rfl, rfl, fun h => refused _ h fun _ hl => absurd rfl hl, fun k n u hi hl hrun => ?_⟩
  have hreset := State.discarded_hardwareReset (s := { s with inputs := rest }) hi hl
  obtain ⟨-, hnone⟩ := run_induction (P := State.discarded (s.slot k).handle) step_discarded hreset hrun
  exact refused u _ hnone

end Sys2Proof.Machine
end
